-- ==== Sys2Proof/Word.lean ====
section
/-! DEFINITION. The word types of the digdacm CRC-8 frame checker (spec/00_scope.md R9, R10: every value is
unsigned; a byte and a character are 8 bits). -/

namespace Sys2Proof

/-- A byte of the frame, a character on a port, the CRC accumulator (R9: `BYTE_WIDTH`, `CHAR_WIDTH`, `CRC_WIDTH`). -/
abbrev Byte := BitVec 8

/-- The value of one hex digit (R16, R50). -/
abbrev Nibble := BitVec 4

/-- Format `SYM` (R45): `{in_eof, in_char[7:0]}`. -/
abbrev SymWord := BitVec 9

/-- Format `ENG` (R58): `{busy, eng_clear, eng_valid, eng_byte[7:0]}`. -/
abbrev EngWord := BitVec 11

/-- Format `STATE` (R58): `{phase[1:0], busy, last}`. -/
abbrev StateWord := BitVec 4

end Sys2Proof
end

