-- ==== Sys2Proof/Machine/Chars.lean ====
section
/-! DEFINITION. Characters (spec/30_encoding.md R48 to R53): the hex digits, the symbol classes, byte assembly and
the bit characters of the output. The numeric codes are the spec's general-knowledge passages G1 and G2 (log entry
16). -/

namespace Sys2Proof

/-- R11, R48: LF, "the code 0x0A", the line terminator. -/
def charLF : Byte := 0x0A

/-- R49, R50: the value of a hex digit character; `none` for every other code ("is undefined otherwise"). -/
def hexval (c : Byte) : Option Nibble :=
  if 0x30 ≤ c.toNat ∧ c.toNat ≤ 0x39 then some (BitVec.ofNat 4 (c.toNat - 0x30))
  else if 0x41 ≤ c.toNat ∧ c.toNat ≤ 0x46 then some (BitVec.ofNat 4 (c.toNat - 0x41 + 10))
  else if 0x61 ≤ c.toNat ∧ c.toNat ≤ 0x66 then some (BitVec.ofNat 4 (c.toNat - 0x61 + 10))
  else none

/-- R49: `c` is one of the 22 hex digits. -/
def isHexDigit (c : Byte) : Bool := (hexval c).isSome

/-- R35, R51: byte = `{first, second}`, the first digit the more-significant nibble. -/
def assembleByte (first second : Nibble) : Byte := first ++ second

/-- R52: `out_char = 0x30 OR zext_8(bit)`. -/
def bitChar (b : Bool) : Byte := 0x30 ||| (BitVec.ofBool b).setWidth 8

/-- R90: the eight bit characters of a byte, bit 7 first. -/
def bits8 (b : Byte) : List Byte :=
  [7, 6, 5, 4, 3, 2, 1, 0].map fun i => bitChar (b.getLsbD i)

end Sys2Proof
end

