-- ==== Sys2Proof/Machine/Crc.lean ====
section
/-! DEFINITION. The CRC-8 of spec/40_crc_engine.md, R59 to R62 (functional level): polynomial 0x07, initial value 0,
most-significant bit first, no reflection, no final XOR (00_scope.md R2). -/

namespace Sys2Proof

/-- R2, R9: x^8 + x^2 + x + 1, "the x^8 term is implicit". -/
def crcPoly : Byte := 0x07

/-- R2, R9: the initial accumulator value. -/
def crcInit : Byte := 0x00

/-- R61: one bit of the polynomial division. The 8-bit type is the truncation of R62. -/
def bitstep (c : Byte) : Byte :=
  if c.getLsbD 7 then (c <<< 1) ^^^ crcPoly else c <<< 1

/-- `n` passes of R59's "repeat" body. -/
def bitsteps : Nat → Byte → Byte
  | 0, c => c
  | n + 1, c => bitsteps n (bitstep c)

/-- R59: one pass of the loop over the bytes. -/
def crcByte (c b : Byte) : Byte := bitsteps 8 (c ^^^ b)

/-- R59: the checksum of a byte sequence. -/
def crc8 (bytes : List Byte) : Byte := bytes.foldl crcByte crcInit

end Sys2Proof
end

