-- ==== Sys2Proof/Config.lean ====
section
/-! DEFINITION. What a build of the hardware fixes (spec/00_scope.md R9): the one open parameter `MAX_BYTES`, and
the register widths R9 derives from it. The block draws no free value (R12), so no opaque constant stands here. -/

namespace Sys2Proof

/-- The open parameters of R9: `MAX_BYTES` alone. It is the largest number of frame bytes, payload plus trailer,
that one invocation accepts. Log entry 1. -/
structure Config where
  maxBytes : Nat
  deriving DecidableEq, Repr

/-- R9: `MAX_BYTES` is "default 8000". -/
def Config.default : Config := ⟨8000⟩

/-- R9: "any integer >= 1". -/
def Config.wf (c : Config) : Bool := decide (1 ≤ c.maxBytes)

/-- `ceil(log2 n)` for `n ≥ 1`, as R9 and R32 use it for widths. -/
def ceilLog2 (n : Nat) : Nat := if n ≤ 1 then 0 else Nat.log2 (n - 1) + 1

/-- R9: "`nchars` needs `ceil(log2(2*MAX_BYTES + 2))` bits". -/
def Config.ncharsWidth (c : Config) : Nat := ceilLog2 (2 * c.maxBytes + 2)

/-- R9: "the byte index `idx` needs `ceil(log2(MAX_BYTES + 1))` bits". -/
def Config.idxWidth (c : Config) : Nat := ceilLog2 (c.maxBytes + 1)

/-- R32: "An address is an unsigned number of `ceil(log2(MAX_BYTES))` bits". -/
def Config.addrWidth (c : Config) : Nat := ceilLog2 c.maxBytes

end Sys2Proof
end

