-- ==== Sys2Proof/Machine/State.lean ====
section
/-! DEFINITION. The state of the machine (spec/10_state.md R13: the architectural state of the block, whole), the
hosts' side of its ports, the reasons a step can stop, and the state after reset (R30). State is plain data. -/

namespace Sys2Proof.Machine

open Sys2Proof

/-- R20: the top-level sequencing state. -/
inductive Phase where
  | recv
  | check
  | render
  | done
  deriving DecidableEq, Repr

/-- R97: the four error kinds of an invocation. They are outcomes of the hardware, not faults of the model. -/
inductive ErrorKind where
  | inputUnavailable
  | malformedFrame
  | resourceLimitExceeded
  | integrityMismatch
  deriving DecidableEq, Repr

/-- Which hardware a state is a state of: the whole frame checker (R43), or the CRC-8 Engine "taken as a block of its
own" (R54). Log entry 4. -/
inductive Block where
  | frameChecker
  | engine
  deriving DecidableEq, Repr

/-- The levels the hosts drive on the input pins at one rising edge of `clk`: the inputs of the frame checker (R43)
and of the engine as a block of its own (R54). Log entry 2. -/
structure Pins where
  rst : Bool := false
  inValid : Bool := false
  inChar : Byte := 0
  inEof : Bool := false
  outReady : Bool := false
  engClear : Bool := false
  engValid : Bool := false
  engByte : Byte := 0
  deriving DecidableEq, Repr

/-- A transferred input symbol (R45): a character, or the end-of-input marker, whose low bits are ignored. -/
inductive Sym where
  | char (c : Byte)
  | eof
  deriving DecidableEq, Repr

/-- Why a step has no next state. No run from reset reaches one of these. -/
inductive Fault where
  /-- Raised by a load of a frame-buffer cell that nothing has written since reset (R40: "a model may treat a read of
  an unwritten cell as a fault that no run reaches"). Safe. -/
  | unwrittenCell (address : Nat)
  /-- Raised by an access at or above `MAX_BYTES`: R32, "No address above `MAX_BYTES - 1` is ever generated". Safe. -/
  | noSuchCell (address : Nat)
  /-- Raised by CHECK.VERIFY when the frame length is 0, so that the trailer's address `len - 1` does not exist (R32,
  R40). Safe. -/
  | noTrailer
  deriving DecidableEq, Repr

/-- Why an operation has no meaning. -/
inductive Refusal where
  /-- Raised by an arm of `exec` whose operation is not modelled; no arm raises it. Safe. -/
  | notModelled (mnemonic : String)
  deriving DecidableEq, Repr

/-- The frame buffer: (address, byte) pairs, addresses strictly rising; a cell not listed holds no value (R30,
R116). -/
abbrev Memory := List Host.Cell

/-- The architectural state of R13, `crc` to `buf`, under the spec's own names; then what is the model's own: the
build parameter, the block the state belongs to, and the hosts' side of the ports. -/
structure State where
  /-- R14: the CRC accumulator. -/
  crc : Byte
  /-- R15: bit steps still owed for the absorbed byte. -/
  bitcnt : BitVec 4
  /-- R20. -/
  phase : Phase
  /-- R17: text characters consumed, saturating at `2*MAX_BYTES + 1`. A count; log entry 12. -/
  nchars : Nat
  /-- R16: the high digit waiting for its low digit. -/
  hi : Nibble
  /-- R18: sticky, a non-hex text character was consumed. -/
  bad : Bool
  /-- R19: index of the next byte to absorb or render. A count; log entry 12. -/
  idx : Nat
  /-- R21: the bit of `buf[idx]` to render next. -/
  bitidx : BitVec 3
  /-- R22: the outcome code. -/
  status : BitVec 3
  /-- R24, R31: the frame buffer. -/
  buf : Memory
  /-- The build parameter (R9). Log entry 1. -/
  cfg : Config
  /-- The block this is a state of (R43, R54). Log entry 4. -/
  block : Block
  /-- What the hosts drive on the pins at each coming rising edge, the next edge first. Log entry 2. -/
  edges : List Pins
  /-- The input symbols transferred in this invocation (R44), oldest first. Log entry 3. -/
  taken : List Sym
  /-- The output symbols transferred in this invocation (R46), oldest first. Log entry 3. -/
  sent : List Byte
  deriving DecidableEq, Repr

/-- R30, R118: the start of an invocation, in a given build and block, with given coming pin levels. -/
def State.start (cfg : Config) (block : Block) (edges : List Pins) : State where
  crc := 0x00
  bitcnt := 0
  phase := .recv
  nchars := 0
  hi := 0
  bad := false
  idx := 0
  bitidx := 7
  status := 0
  buf := []
  cfg := cfg
  block := block
  edges := edges
  taken := []
  sent := []

/-- The frame checker right after reset (R30), in the default build (R9), nothing offered yet. -/
def State.reset : State := State.start Config.default .frameChecker []

end Sys2Proof.Machine
end

