-- ==== Sys2Proof/Machine/Ops.lean ====
section
/-! DEFINITION. The named operations over the frame buffer, the registers and the ports: memory reads and writes
(spec/00_scope.md R11, 20_memory.md), the three engine operations (R63 to R65), `raise` (R104) with the one way out of
DONE beside it, reset (R107, R115), and the records of transferred symbols. -/

namespace Sys2Proof.Machine

open Sys2Proof

/-- What an operation answers. -/
abbrev Result := Host.Outcome State Fault Refusal

/-- Go on with a value, or stop with the fault. -/
def orFault {α : Type} (r : Except Fault α) (k : α → Result) : Result :=
  match r with
  | .ok v => k v
  | .error f => .fault f

/-! ## The frame buffer -/

/-- The byte a cell holds; a cell nothing has written holds no value (R30, R116; log entry 5). -/
def Memory.lookup : Memory → Nat → Option Byte
  | [], _ => none
  | (k, b) :: m, a => if k = a then some b else Memory.lookup m a

/-- R33: "a write replaces the cell". The list stays sorted by address. -/
def Memory.insert : Memory → Nat → Byte → Memory
  | [], a, v => [(a, v)]
  | (k, b) :: m, a, v =>
    if a < k then (a, v) :: (k, b) :: m
    else if a = k then (a, v) :: m
    else (k, b) :: Memory.insert m a v

/-- Every address of the list is above `a`, each above the one before it. -/
def Memory.risingFrom : Nat → Memory → Bool
  | _, [] => true
  | a, (k, _) :: m => decide (a < k) && Memory.risingFrom k m

/-- The canonical form: addresses strictly rising. A cell not listed reads as no value, so no listed entry equals
what an unlisted address reads as. -/
def Memory.wf : Memory → Bool
  | [] => true
  | (k, _) :: m => Memory.risingFrom k m

/-- R11 `MemRead(a, 1)`. An address from `MAX_BYTES` up does not exist (R32; log entry 6). -/
def State.memRead (s : State) (a : Nat) : Except Fault Byte :=
  if a < s.cfg.maxBytes then
    match s.buf.lookup a with
    | some b => .ok b
    | none => .error (.unwrittenCell a)
  else .error (.noSuchCell a)

/-- The cell at `a` holds `v`. -/
def State.setCell (s : State) (a : Nat) (v : Byte) : State := { s with buf := s.buf.insert a v }

/-- R11 `MemWrite(a, 1, v)`. -/
def State.memWrite (s : State) (a : Nat) (v : Byte) : Except Fault State :=
  if a < s.cfg.maxBytes then .ok (s.setCell a v) else .error (.noSuchCell a)

/-! ## The engine's operations -/

/-- R63 ENG.CLR. -/
def State.engClr (s : State) : State := { s with crc := crcInit, bitcnt := 0 }

/-- R64 ENG.ABSORB. -/
def State.engAbsorb (s : State) (b : Byte) : State := { s with crc := s.crc ^^^ b, bitcnt := 8 }

/-- R65 ENG.BITSTEP. -/
def State.engBitstep (s : State) : State := { s with crc := bitstep s.crc, bitcnt := s.bitcnt - 1 }

/-! ## The end of an invocation, and the way out of it -/

/-- R47, R97: the code of an error kind. -/
def ErrorKind.code : ErrorKind → BitVec 3
  | .inputUnavailable => 1
  | .malformedFrame => 2
  | .resourceLimitExceeded => 3
  | .integrityMismatch => 4

/-- R47: the code of success. -/
def statusOk : BitVec 3 := 0

/-- R104 `raise`: `status` and `phase`, "and nothing else". -/
def State.raise (s : State) (e : ErrorKind) : State := { s with status := e.code, phase := .done }

/-- R92, R114: success, reported the same way with code 0. -/
def State.finishOk (s : State) : State := { s with status := statusOk, phase := .done }

/-- R115, R116: the edge with `rst` = 1. Every register takes its reset value, and the buffer cells hold no value the
model may use; a new invocation starts, so the records of transferred symbols start empty (log entries 3, 5). There is
no return from an error but this (R107). -/
def State.resetEdge (s : State) : State := State.start s.cfg s.block s.edges

/-! ## Transfers -/

/-- R44: the symbol is transferred (recorded; the block keeps no copy, R29). -/
def State.take (s : State) (x : Sym) : State := { s with taken := s.taken ++ [x] }

/-- R46: the downstream host takes the offered character (recorded; the block does not store it, R29). -/
def State.send (s : State) (c : Byte) : State := { s with sent := s.sent ++ [c] }

end Sys2Proof.Machine
end

