-- ==== Sys2Proof/Machine/Operands.lean ====
section
/-! DEFINITION. The operand forms of the steps: the frame length, the store address and the byte stored, the loads at
`idx` and at `len - 1` (spec/20_memory.md R39), the bit of a byte (41_frame_decoder.md R89), and the counting of a
character (R82, R83). -/

namespace Sys2Proof.Machine

open Sys2Proof

/-- R9, R101: the text limit, `2 * MAX_BYTES` characters. -/
def State.textLimit (s : State) : Nat := 2 * s.cfg.maxBytes

/-- R17: `len = nchars >> 1`. -/
def State.len (s : State) : Nat := s.nchars / 2

/-- R39, R82: the address RECV.HEX stores to, `nchars >> 1` from before the step. -/
def State.storeAddr (s : State) : Nat := s.nchars / 2

/-- R39, R87, R89: the byte `buf[idx]`. -/
def State.byteAtIdx (s : State) : Except Fault Byte := s.memRead s.idx

/-- R39, R88: the trailer `buf[len-1]`. -/
def State.trailer (s : State) : Except Fault Byte :=
  if s.len = 0 then .error .noTrailer else s.memRead (s.len - 1)

/-- R89: bit `bitidx` of a byte. -/
def State.bitOf (s : State) (b : Byte) : Bool := b.getLsbD s.bitidx.toNat

/-- R82, R83: `nchars <- min(nchars + 1, 2*MAX_BYTES + 1)`. -/
def State.countChar (s : State) : State := { s with nchars := min (s.nchars + 1) (s.textLimit + 1) }

/-- R83: `bad <- 1`. -/
def State.markBad (s : State) : State := { s with bad := true }

/-- R82: `hi <- v`. -/
def State.holdDigit (s : State) (v : Nibble) : State := { s with hi := v }

/-- R87: ENG.ABSORB of a byte, and `idx` one further. -/
def State.absorbNext (s : State) (b : Byte) : State := { s.engAbsorb b with idx := s.idx + 1 }

/-- R82: hold the first digit of a pair, or store the byte of the pair; past the limit, neither. -/
def State.storeDigit (s : State) (v : Nibble) : Except Fault State :=
  if s.nchars < s.textLimit then
    if s.nchars % 2 = 0 then .ok (s.holdDigit v)
    else s.memWrite s.storeAddr (assembleByte s.hi v)
  else .ok s

/-- R89: the next bit of the byte, or the next byte from its bit 7. -/
def State.nextBit (s : State) : State :=
  if s.bitidx = 0 then { s with idx := s.idx + 1, bitidx := 7 }
  else { s with bitidx := s.bitidx - 1 }

end Sys2Proof.Machine
end

