-- ==== Sys2Proof/Machine/Flags.lean ====
section
/-! DEFINITION. The conditions the steps test (spec/10_state.md R27), the enabling condition of each step
(spec/41_frame_decoder.md R82 to R93), and the end-of-line decision (R86). The block has no condition codes; its one
sticky flag is `bad`. -/

namespace Sys2Proof.Machine

open Sys2Proof

/-- R15, R27 (b): the engine is busy. -/
def State.engBusy (s : State) : Bool := s.bitcnt != 0

/-- R27 (d): `nchars[0]`. -/
def State.oddChars (s : State) : Bool := s.nchars % 2 == 1

/-- R27 (d), R86: `nchars > 2*MAX_BYTES`. -/
def State.overLimit (s : State) : Bool := decide (s.textLimit < s.nchars)

/-- R27 (e): `idx == len`. -/
def State.atLen (s : State) : Bool := s.idx == s.len

/-- R86, R99: zero length, odd length, or a non-hex character. -/
def State.malformed (s : State) : Bool := s.nchars == 0 || s.oddChars || s.bad

/-- R82 to R85: a symbol is taken in phase RECV only. -/
def State.recvEnabled (s : State) : Bool := s.phase == .recv

/-- R87: `phase == CHECK`, `bitcnt == 0`, `idx < len`. -/
def State.absorbEnabled (s : State) : Bool := s.phase == .check && !s.engBusy && decide (s.idx < s.len)

/-- R93: `phase == CHECK`, `bitcnt != 0`. -/
def State.bitstepEnabled (s : State) : Bool := s.phase == .check && s.engBusy

/-- R88: `phase == CHECK`, `bitcnt == 0`, `idx == len`. -/
def State.verifyEnabled (s : State) : Bool := s.phase == .check && !s.engBusy && s.atLen

/-- R89: `phase == RENDER` and `idx < len`. -/
def State.bitEnabled (s : State) : Bool := s.phase == .render && decide (s.idx < s.len)

/-- R92: `phase == RENDER` and `idx == len`. -/
def State.newlineEnabled (s : State) : Bool := s.phase == .render && s.atLen

/-- R86: entering CHECK, with ENG.CLR at the same edge. -/
def State.enterCheck (s : State) : State := { s.engClr with idx := 0, phase := .check }

/-- R86 `end_of_line()`: the resource limit, then the malformed text, then CHECK (the priority of R103). -/
def State.endOfLine (s : State) : State :=
  if s.overLimit then s.raise .resourceLimitExceeded
  else if s.malformed then s.raise .malformedFrame
  else s.enterCheck

/-- R88: the accepting branch of CHECK.VERIFY. -/
def State.accept (s : State) : State := { s with idx := 0, bitidx := 7, phase := .render }

end Sys2Proof.Machine
end

