-- ==== Sys2Proof/Machine/Check.lean ====
section
/-! DEFINITION. The meanings of the CHECK rows of format `STATE` (spec/41_frame_decoder.md R87, R93, R88). A step whose
enabling condition does not hold does not happen (log entry 8). -/

namespace Sys2Proof.Machine

open Sys2Proof

/-- R87 CHECK.ABSORB: ENG.ABSORB of `buf[idx]`. -/
def execCheckAbsorb (s : State) : Result :=
  if s.absorbEnabled then
    orFault s.byteAtIdx fun b => .next (s.absorbNext b)
  else .next s

/-- R93 CHECK.BITSTEP: ENG.BITSTEP. -/
def execCheckBitstep (s : State) : Result :=
  if s.bitstepEnabled then .next s.engBitstep else .next s

/-- R88 CHECK.VERIFY: accept exactly when `crc` equals the trailer (R78). -/
def execCheckVerify (s : State) : Result :=
  if s.verifyEnabled then
    orFault s.trailer fun t =>
      if s.crc = t then .next s.accept else .next (s.raise .integrityMismatch)
  else .next s

end Sys2Proof.Machine
end

