-- ==== Sys2Proof/Machine/Engine.lean ====
section
/-! DEFINITION. The meanings of the 4 rows of format `ENG` (spec/40_crc_engine.md R63 to R66), as commands of the
engine taken as a block of its own: the priority of spec/30_encoding.md R54 decides at each edge, so a command other
than ENG.CLR given to a busy engine is ignored and ENG.BITSTEP happens instead (R64, R125; log entry 9). -/

namespace Sys2Proof.Machine

open Sys2Proof

/-- R54, priorities 2 to 4: with `eng_clear` = 0 a busy engine takes a bit step; an idle one does `idle`. -/
def engineEdge (s : State) (idle : State) : Result :=
  if s.engBusy then .next s.engBitstep else .next idle

/-- R63 ENG.CLR, whatever `bitcnt` is. -/
def execEngClr (s : State) : Result := .next s.engClr

/-- R65 ENG.BITSTEP: a step of a busy engine; it never happens when `bitcnt == 0` (R69). -/
def execEngBitstep (s : State) : Result := engineEdge s s

/-- R64 ENG.ABSORB of `b`, taken only when `bitcnt == 0`. -/
def execEngAbsorb (b : Byte) (s : State) : Result := engineEdge s (s.engAbsorb b)

/-- R66 ENG.IDLE: no register changes. -/
def execEngIdle (s : State) : Result := engineEdge s s

end Sys2Proof.Machine
end

