-- ==== Sys2Proof/Machine/Recv.lean ====
section
/-! DEFINITION. The meanings of the 25 rows of format `SYM` (spec/41_frame_decoder.md R82 to R86): an input symbol is
transferred in phase RECV. In any other phase no symbol is transferred and nothing changes (R44, R94; log entry 8). -/

namespace Sys2Proof.Machine

open Sys2Proof

/-- R82 RECV.HEX: the digit character `c` with value `v` is consumed: held or stored while there is room, and
counted. -/
def recvHex (c : Byte) (v : Nibble) (s : State) : Result :=
  if s.recvEnabled then orFault (s.storeDigit v) fun t => .next (t.countChar.take (.char c))
  else .next s

/-- R83 RECV.OTHER: the character sets `bad` and is counted; nothing is stored. -/
def recvNonHex (c : Byte) (s : State) : Result :=
  if s.recvEnabled then .next (s.markBad.countChar.take (.char c))
  else .next s

/-- R84 RECV.LF: the line ends; the LF is not counted. -/
def recvLineFeed (s : State) : Result :=
  if s.recvEnabled then .next (s.endOfLine.take (.char charLF)) else .next s

/-- R85 RECV.EOF: no input at all, or the end of an unterminated line. -/
def recvEndOfInput (s : State) : Result :=
  if s.recvEnabled then
    if s.nchars = 0 then .next ((s.raise .inputUnavailable).take .eof)
    else .next (s.endOfLine.take .eof)
  else .next s

/-- R82, row `RECV.HEX.0`: code 0x30, value 0. -/
def execRecvHex0 (s : State) : Result := recvHex 0x30 0x0 s

/-- R82, row `RECV.HEX.1`: code 0x31, value 1. -/
def execRecvHex1 (s : State) : Result := recvHex 0x31 0x1 s

/-- R82, row `RECV.HEX.2`: code 0x32, value 2. -/
def execRecvHex2 (s : State) : Result := recvHex 0x32 0x2 s

/-- R82, row `RECV.HEX.3`: code 0x33, value 3. -/
def execRecvHex3 (s : State) : Result := recvHex 0x33 0x3 s

/-- R82, row `RECV.HEX.4`: code 0x34, value 4. -/
def execRecvHex4 (s : State) : Result := recvHex 0x34 0x4 s

/-- R82, row `RECV.HEX.5`: code 0x35, value 5. -/
def execRecvHex5 (s : State) : Result := recvHex 0x35 0x5 s

/-- R82, row `RECV.HEX.6`: code 0x36, value 6. -/
def execRecvHex6 (s : State) : Result := recvHex 0x36 0x6 s

/-- R82, row `RECV.HEX.7`: code 0x37, value 7. -/
def execRecvHex7 (s : State) : Result := recvHex 0x37 0x7 s

/-- R82, row `RECV.HEX.8`: code 0x38, value 8. -/
def execRecvHex8 (s : State) : Result := recvHex 0x38 0x8 s

/-- R82, row `RECV.HEX.9`: code 0x39, value 9. -/
def execRecvHex9 (s : State) : Result := recvHex 0x39 0x9 s

/-- R82, row `RECV.HEX.A`: code 0x41, value 10. -/
def execRecvHexUpperA (s : State) : Result := recvHex 0x41 0xA s

/-- R82, row `RECV.HEX.B`: code 0x42, value 11. -/
def execRecvHexUpperB (s : State) : Result := recvHex 0x42 0xB s

/-- R82, row `RECV.HEX.C`: code 0x43, value 12. -/
def execRecvHexUpperC (s : State) : Result := recvHex 0x43 0xC s

/-- R82, row `RECV.HEX.D`: code 0x44, value 13. -/
def execRecvHexUpperD (s : State) : Result := recvHex 0x44 0xD s

/-- R82, row `RECV.HEX.E`: code 0x45, value 14. -/
def execRecvHexUpperE (s : State) : Result := recvHex 0x45 0xE s

/-- R82, row `RECV.HEX.F`: code 0x46, value 15. -/
def execRecvHexUpperF (s : State) : Result := recvHex 0x46 0xF s

/-- R82, row `RECV.HEX.a`: code 0x61, value 10. -/
def execRecvHexLowerA (s : State) : Result := recvHex 0x61 0xA s

/-- R82, row `RECV.HEX.b`: code 0x62, value 11. -/
def execRecvHexLowerB (s : State) : Result := recvHex 0x62 0xB s

/-- R82, row `RECV.HEX.c`: code 0x63, value 12. -/
def execRecvHexLowerC (s : State) : Result := recvHex 0x63 0xC s

/-- R82, row `RECV.HEX.d`: code 0x64, value 13. -/
def execRecvHexLowerD (s : State) : Result := recvHex 0x64 0xD s

/-- R82, row `RECV.HEX.e`: code 0x65, value 14. -/
def execRecvHexLowerE (s : State) : Result := recvHex 0x65 0xE s

/-- R82, row `RECV.HEX.f`: code 0x66, value 15. -/
def execRecvHexLowerF (s : State) : Result := recvHex 0x66 0xF s

/-- R84, row `RECV.LF`. -/
def execRecvLf (s : State) : Result := recvLineFeed s

/-- R85, row `RECV.EOF`. -/
def execRecvEof (s : State) : Result := recvEndOfInput s

/-- R83, row `RECV.OTHER`. -/
def execRecvOther (c : Byte) (s : State) : Result := recvNonHex c s

end Sys2Proof.Machine
end

