-- ==== Sys2Proof/Machine/Render.lean ====
section
/-! DEFINITION. The meanings of the RENDER rows of format `STATE` (spec/41_frame_decoder.md R89, R92): each happens at
an output transfer. A step whose enabling condition does not hold does not happen (log entry 8). -/

namespace Sys2Proof.Machine

open Sys2Proof

/-- R89 RENDER.BIT: bit `bitidx` of `buf[idx]` is transferred as a character. -/
def execRenderBit (s : State) : Result :=
  if s.bitEnabled then
    orFault s.byteAtIdx fun b => .next (s.nextBit.send (bitChar (s.bitOf b)))
  else .next s

/-- R92 RENDER.LF: the newline is transferred; the invocation ends with status OK. -/
def execRenderLf (s : State) : Result :=
  if s.newlineEnabled then .next (s.finishOk.send charLF) else .next s

end Sys2Proof.Machine
end

