-- ==== Sys2Proof/Syntax.lean ====
section
/-! DEFINITION. The operations of spec/opcode_table.json, one constructor a row (30_encoding.md R58): the 25 rows of
format `SYM` (input symbols, consumed in phase RECV), the 4 rows of format `ENG` (engine operations) and the 5 rows of
format `STATE` (steps selected by the block's own state). -/

namespace Sys2Proof

/-- One constructor per row. An operand stands only where the row has one: the bits that RECV.EOF, ENG.CLR,
ENG.BITSTEP, ENG.IDLE, CHECK.BITSTEP and the RENDER rows ignore are no operands (R45, R54, R58). -/
inductive Instr where
  /-- Row `RECV.HEX.0`: the character code 0x30, digit value 0 (R49, R82). -/
  | recvHex0
  /-- Row `RECV.HEX.1`: the character code 0x31, digit value 1 (R49, R82). -/
  | recvHex1
  /-- Row `RECV.HEX.2`: the character code 0x32, digit value 2 (R49, R82). -/
  | recvHex2
  /-- Row `RECV.HEX.3`: the character code 0x33, digit value 3 (R49, R82). -/
  | recvHex3
  /-- Row `RECV.HEX.4`: the character code 0x34, digit value 4 (R49, R82). -/
  | recvHex4
  /-- Row `RECV.HEX.5`: the character code 0x35, digit value 5 (R49, R82). -/
  | recvHex5
  /-- Row `RECV.HEX.6`: the character code 0x36, digit value 6 (R49, R82). -/
  | recvHex6
  /-- Row `RECV.HEX.7`: the character code 0x37, digit value 7 (R49, R82). -/
  | recvHex7
  /-- Row `RECV.HEX.8`: the character code 0x38, digit value 8 (R49, R82). -/
  | recvHex8
  /-- Row `RECV.HEX.9`: the character code 0x39, digit value 9 (R49, R82). -/
  | recvHex9
  /-- Row `RECV.HEX.A`: the character code 0x41, digit value 10 (R49, R82). -/
  | recvHexUpperA
  /-- Row `RECV.HEX.B`: the character code 0x42, digit value 11 (R49, R82). -/
  | recvHexUpperB
  /-- Row `RECV.HEX.C`: the character code 0x43, digit value 12 (R49, R82). -/
  | recvHexUpperC
  /-- Row `RECV.HEX.D`: the character code 0x44, digit value 13 (R49, R82). -/
  | recvHexUpperD
  /-- Row `RECV.HEX.E`: the character code 0x45, digit value 14 (R49, R82). -/
  | recvHexUpperE
  /-- Row `RECV.HEX.F`: the character code 0x46, digit value 15 (R49, R82). -/
  | recvHexUpperF
  /-- Row `RECV.HEX.a`: the character code 0x61, digit value 10 (R49, R82). -/
  | recvHexLowerA
  /-- Row `RECV.HEX.b`: the character code 0x62, digit value 11 (R49, R82). -/
  | recvHexLowerB
  /-- Row `RECV.HEX.c`: the character code 0x63, digit value 12 (R49, R82). -/
  | recvHexLowerC
  /-- Row `RECV.HEX.d`: the character code 0x64, digit value 13 (R49, R82). -/
  | recvHexLowerD
  /-- Row `RECV.HEX.e`: the character code 0x65, digit value 14 (R49, R82). -/
  | recvHexLowerE
  /-- Row `RECV.HEX.f`: the character code 0x66, digit value 15 (R49, R82). -/
  | recvHexLowerF
  /-- Row `RECV.LF`: the line terminator 0x0A (R84). -/
  | recvLf
  /-- Row `RECV.EOF`: the end-of-input marker, its low 8 bits ignored (R45, R85). -/
  | recvEof
  /-- Row `RECV.OTHER`: a character `c` that is neither a hex digit nor LF (R48, R83). -/
  | recvOther (c : Byte)
  /-- Row `ENG.CLR` (R63). -/
  | engClr
  /-- Row `ENG.BITSTEP` (R65). -/
  | engBitstep
  /-- Row `ENG.ABSORB`, operand `eng_byte` (R64). -/
  | engAbsorb (b : Byte)
  /-- Row `ENG.IDLE` (R66). -/
  | engIdle
  /-- Row `CHECK.ABSORB` (R87). -/
  | checkAbsorb
  /-- Row `CHECK.BITSTEP` (R93). -/
  | checkBitstep
  /-- Row `CHECK.VERIFY` (R88). -/
  | checkVerify
  /-- Row `RENDER.BIT` (R89). -/
  | renderBit
  /-- Row `RENDER.LF` (R92). -/
  | renderLf
  deriving DecidableEq, Repr

end Sys2Proof
end

