-- ==== Sys2Proof/Machine/Dispatch.lean ====
section
/-! DEFINITION. One arm per operation of spec/opcode_table.json. -/

namespace Sys2Proof.Machine

open Sys2Proof

def exec (i : Instr) (s : State) : Host.Outcome State Fault Refusal :=
  match i with
  -- format SYM
  | .recvHex0 => Sys2Proof.Machine.execRecvHex0 s
  | .recvHex1 => Sys2Proof.Machine.execRecvHex1 s
  | .recvHex2 => Sys2Proof.Machine.execRecvHex2 s
  | .recvHex3 => Sys2Proof.Machine.execRecvHex3 s
  | .recvHex4 => Sys2Proof.Machine.execRecvHex4 s
  | .recvHex5 => Sys2Proof.Machine.execRecvHex5 s
  | .recvHex6 => Sys2Proof.Machine.execRecvHex6 s
  | .recvHex7 => Sys2Proof.Machine.execRecvHex7 s
  | .recvHex8 => Sys2Proof.Machine.execRecvHex8 s
  | .recvHex9 => Sys2Proof.Machine.execRecvHex9 s
  | .recvHexUpperA => Sys2Proof.Machine.execRecvHexUpperA s
  | .recvHexUpperB => Sys2Proof.Machine.execRecvHexUpperB s
  | .recvHexUpperC => Sys2Proof.Machine.execRecvHexUpperC s
  | .recvHexUpperD => Sys2Proof.Machine.execRecvHexUpperD s
  | .recvHexUpperE => Sys2Proof.Machine.execRecvHexUpperE s
  | .recvHexUpperF => Sys2Proof.Machine.execRecvHexUpperF s
  | .recvHexLowerA => Sys2Proof.Machine.execRecvHexLowerA s
  | .recvHexLowerB => Sys2Proof.Machine.execRecvHexLowerB s
  | .recvHexLowerC => Sys2Proof.Machine.execRecvHexLowerC s
  | .recvHexLowerD => Sys2Proof.Machine.execRecvHexLowerD s
  | .recvHexLowerE => Sys2Proof.Machine.execRecvHexLowerE s
  | .recvHexLowerF => Sys2Proof.Machine.execRecvHexLowerF s
  | .recvLf => Sys2Proof.Machine.execRecvLf s
  | .recvEof => Sys2Proof.Machine.execRecvEof s
  | .recvOther c => Sys2Proof.Machine.execRecvOther c s
  -- format ENG
  | .engClr => Sys2Proof.Machine.execEngClr s
  | .engBitstep => Sys2Proof.Machine.execEngBitstep s
  | .engAbsorb b => Sys2Proof.Machine.execEngAbsorb b s
  | .engIdle => Sys2Proof.Machine.execEngIdle s
  -- format STATE
  | .checkAbsorb => Sys2Proof.Machine.execCheckAbsorb s
  | .checkBitstep => Sys2Proof.Machine.execCheckBitstep s
  | .checkVerify => Sys2Proof.Machine.execCheckVerify s
  | .renderBit => Sys2Proof.Machine.execRenderBit s
  | .renderLf => Sys2Proof.Machine.execRenderLf s

end Sys2Proof.Machine
end

