-- ==== Sys2Proof/WellFormed.lean ====
section
/-! DEFINITION. Which terms of `Instr` stand for a word of the table: the one operand with a constraint is the
character of `RECV.OTHER` (spec/30_encoding.md R48, R58: "with the constraint that `c` matches no other `SYM` row"). -/

namespace Sys2Proof

/-- R48, R58: the character of `RECV.OTHER` is one of the 233 codes that are no hex digit and not LF; every other
operand is free. -/
def Instr.wf : Instr → Bool
  | .recvOther c => !isHexDigit c && c != charLF
  | _ => true

end Sys2Proof
end

