-- ==== Sys2Proof/Decode.lean ====
section
/-! DEFINITION. The decoder and, after it, the encoder (spec/30_encoding.md R45, R48, R54, R58 and
spec/opcode_table.json). Three formats: `SYM`, `ENG`, `STATE`. Decoding is total: every word of `SYM` and of `ENG`
selects one row; a `STATE` word of phase RECV or DONE has none and is rejected by name. -/

namespace Sys2Proof

/-- R58: the three formats of the table. -/
inductive Format where
  | sym
  | eng
  | state
  deriving DecidableEq, Repr

/-- R58: the width of a format's word in bits. -/
def Format.width : Format → Nat
  | .sym => 9
  | .eng => 11
  | .state => 4

/-- Why a word has no row. -/
inductive DecodeError where
  /-- The number has a bit above its format's width. -/
  | wordTooWide (f : Format)
  /-- R58: "Words `00xx` (phase RECV: the step is chosen by the `SYM` word) ... have no row". -/
  | noRowInRecv
  /-- R58: "`11xx` (phase DONE: no step) have no row". -/
  | noRowInDone
  deriving DecidableEq, Repr

/-- spec/opcode_table.json, rows `RECV.HEX.<char>`: the character code (`match`, all nine bits fixed), the row's
`nibble`, the operation. -/
def hexRows : List (Byte × Nibble × Instr) :=
  [(0x30, 0x0, .recvHex0), (0x31, 0x1, .recvHex1), (0x32, 0x2, .recvHex2), (0x33, 0x3, .recvHex3),
   (0x34, 0x4, .recvHex4), (0x35, 0x5, .recvHex5), (0x36, 0x6, .recvHex6), (0x37, 0x7, .recvHex7),
   (0x38, 0x8, .recvHex8), (0x39, 0x9, .recvHex9), (0x41, 0xA, .recvHexUpperA), (0x42, 0xB, .recvHexUpperB),
   (0x43, 0xC, .recvHexUpperC), (0x44, 0xD, .recvHexUpperD), (0x45, 0xE, .recvHexUpperE), (0x46, 0xF, .recvHexUpperF),
   (0x61, 0xA, .recvHexLowerA), (0x62, 0xB, .recvHexLowerB), (0x63, 0xC, .recvHexLowerC), (0x64, 0xD, .recvHexLowerD),
   (0x65, 0xE, .recvHexLowerE), (0x66, 0xF, .recvHexLowerF)]

/-- The row of a hex digit character, if `c` is one. -/
def hexRow (c : Byte) : Option Instr :=
  (hexRows.find? fun r => r.1 == c).map fun r => r.2.2

/-- R48: the class of a character and the operation it selects. -/
def decodeChar (c : Byte) : Instr :=
  match hexRow c with
  | some i => i
  | none => if c = charLF then .recvLf else .recvOther c

/-- R45: bit 8 of a symbol word. -/
def symEof (w : SymWord) : Bool := w.getLsbD 8

/-- R45: bits 7:0 of a symbol word. -/
def symChar (w : SymWord) : Byte := w.setWidth 8

/-- R45, R48: every symbol word selects one operation; with bit 8 = 1 the low bits are ignored. -/
def decodeSym (w : SymWord) : Instr :=
  if symEof w then .recvEof else decodeChar (symChar w)

/-- R58: bit 10 of an engine selection word, `busy`. -/
def engWordBusy (w : EngWord) : Bool := w.getLsbD 10

/-- R58: bit 9, `eng_clear`. -/
def engWordClear (w : EngWord) : Bool := w.getLsbD 9

/-- R58: bit 8, `eng_valid`. -/
def engWordValid (w : EngWord) : Bool := w.getLsbD 8

/-- R58: bits 7:0, `eng_byte`. -/
def engWordByte (w : EngWord) : Byte := w.setWidth 8

/-- R54's priority: clear; else busy; else valid; else idle. -/
def decodeEng (w : EngWord) : Instr :=
  if engWordClear w then .engClr
  else if engWordBusy w then .engBitstep
  else if engWordValid w then .engAbsorb (engWordByte w)
  else .engIdle

/-- R58: bits 3:2 of a condition word, the phase's encoding of R20. -/
def stateWordPhase (w : StateWord) : BitVec 2 := w.extractLsb' 2 2

/-- R58: bit 1, `busy`. -/
def stateWordBusy (w : StateWord) : Bool := w.getLsbD 1

/-- R58: bit 0, `last`. -/
def stateWordLast (w : StateWord) : Bool := w.getLsbD 0

/-- R58: `0100` CHECK.ABSORB, `011x` CHECK.BITSTEP, `0101` CHECK.VERIFY, `10x0` RENDER.BIT, `10x1` RENDER.LF. -/
def decodeState (w : StateWord) : Except DecodeError Instr :=
  if stateWordPhase w = 0 then .error .noRowInRecv
  else if stateWordPhase w = 1 then
    if stateWordBusy w then .ok .checkBitstep
    else if stateWordLast w then .ok .checkVerify
    else .ok .checkAbsorb
  else if stateWordPhase w = 2 then
    if stateWordLast w then .ok .renderLf else .ok .renderBit
  else .error .noRowInDone

/-- The decoder: a number taken as a word of a format. -/
def decode (f : Format) (w : Nat) : Except DecodeError Instr :=
  if w < 2 ^ f.width then
    match f with
    | .sym => .ok (decodeSym (BitVec.ofNat 9 w))
    | .eng => .ok (decodeEng (BitVec.ofNat 11 w))
    | .state => decodeState (BitVec.ofNat 4 w)
  else .error (.wordTooWide f)

/-- A number of `nbits` bits of the table, taken as a word of one format. The table gives `STATE` 4 bits, `SYM` 9 and
`ENG` 11; in whole bytes `STATE` fills one byte and both others two, and a two-byte number does not say which of the
two it is: then a number that fits no `SYM` word is an `ENG` word, 0 is ENG.IDLE's word, and any other is a `SYM`
word. DESIGN CHOICE, log entry 10. -/
def tableFormat (nbits w : Nat) : Format :=
  if nbits ≤ 8 then .state
  else if nbits = 9 then .sym
  else if nbits ≤ 11 then .eng
  else if w = 0 ∨ 2 ^ 9 ≤ w then .eng
  else .sym

/-- The operation the decoder reads from a word numbered as the table numbers it. -/
def decodeTableWord (nbits w : Nat) : Option Instr :=
  (decode (tableFormat nbits w) w).toOption

/-! ## The encoder -/

/-- R45: the symbol word `{in_eof, in_char}`. -/
def symWordOf (eof : Bool) (c : Byte) : SymWord := BitVec.ofBool eof ++ c

/-- R58: the engine selection word. -/
def engWordOf (busy clear valid : Bool) (b : Byte) : EngWord :=
  BitVec.ofBool busy ++ (BitVec.ofBool clear ++ (BitVec.ofBool valid ++ b))

/-- R58: the condition word `{phase, busy, last}`. -/
def stateWordOf (phase : BitVec 2) (busy last : Bool) : StateWord :=
  phase ++ (BitVec.ofBool busy ++ BitVec.ofBool last)

/-- spec/opcode_table.json: the format and the word of an operation, ignored bits written 0 (log entry 18). -/
def encode : Instr → Format × Nat
  | .recvHex0 => (.sym, (symWordOf false 0x30).toNat)
  | .recvHex1 => (.sym, (symWordOf false 0x31).toNat)
  | .recvHex2 => (.sym, (symWordOf false 0x32).toNat)
  | .recvHex3 => (.sym, (symWordOf false 0x33).toNat)
  | .recvHex4 => (.sym, (symWordOf false 0x34).toNat)
  | .recvHex5 => (.sym, (symWordOf false 0x35).toNat)
  | .recvHex6 => (.sym, (symWordOf false 0x36).toNat)
  | .recvHex7 => (.sym, (symWordOf false 0x37).toNat)
  | .recvHex8 => (.sym, (symWordOf false 0x38).toNat)
  | .recvHex9 => (.sym, (symWordOf false 0x39).toNat)
  | .recvHexUpperA => (.sym, (symWordOf false 0x41).toNat)
  | .recvHexUpperB => (.sym, (symWordOf false 0x42).toNat)
  | .recvHexUpperC => (.sym, (symWordOf false 0x43).toNat)
  | .recvHexUpperD => (.sym, (symWordOf false 0x44).toNat)
  | .recvHexUpperE => (.sym, (symWordOf false 0x45).toNat)
  | .recvHexUpperF => (.sym, (symWordOf false 0x46).toNat)
  | .recvHexLowerA => (.sym, (symWordOf false 0x61).toNat)
  | .recvHexLowerB => (.sym, (symWordOf false 0x62).toNat)
  | .recvHexLowerC => (.sym, (symWordOf false 0x63).toNat)
  | .recvHexLowerD => (.sym, (symWordOf false 0x64).toNat)
  | .recvHexLowerE => (.sym, (symWordOf false 0x65).toNat)
  | .recvHexLowerF => (.sym, (symWordOf false 0x66).toNat)
  | .recvLf => (.sym, (symWordOf false 0x0A).toNat)
  | .recvEof => (.sym, (symWordOf true 0x00).toNat)
  | .recvOther c => (.sym, (symWordOf false c).toNat)
  | .engClr => (.eng, (engWordOf false true false 0x00).toNat)
  | .engBitstep => (.eng, (engWordOf true false false 0x00).toNat)
  | .engAbsorb b => (.eng, (engWordOf false false true b).toNat)
  | .engIdle => (.eng, (engWordOf false false false 0x00).toNat)
  | .checkAbsorb => (.state, (stateWordOf 1 false false).toNat)
  | .checkBitstep => (.state, (stateWordOf 1 true false).toNat)
  | .checkVerify => (.state, (stateWordOf 1 false true).toNat)
  | .renderBit => (.state, (stateWordOf 2 false false).toNat)
  | .renderLf => (.state, (stateWordOf 2 false true).toNat)

end Sys2Proof
end

