-- ==== Sys2Proof/Machine/Ports.lean ====
section
/-! DEFINITION. The ports (spec/30_encoding.md R43, R44, R46, R54): the levels on the input pins at the coming edge,
and the output signals as functions of the state (spec/10_state.md R23, R29). -/

namespace Sys2Proof.Machine

open Sys2Proof

/-- Nothing offered, nothing taken, no reset, no engine command: the levels once the list of edges is used up (log
entry 2). -/
def Pins.idle : Pins := {}

/-- The levels at the coming rising edge. -/
def State.pins (s : State) : Pins := s.edges.headD Pins.idle

/-- The edge has passed. -/
def State.advance (s : State) : State := { s with edges := s.edges.tail }

/-- R20: the encoding of `phase`. -/
def Phase.code : Phase → BitVec 2
  | .recv => 0
  | .check => 1
  | .render => 2
  | .done => 3

/-- R43: `in_ready = (phase == RECV)`. -/
def State.inReady (s : State) : Bool := s.phase == .recv

/-- R43: `out_valid = (phase == RENDER)`. -/
def State.outValid (s : State) : Bool := s.phase == .render

/-- R23, R43: `done = (phase == DONE)`. -/
def State.done (s : State) : Bool := s.phase == .done

/-- R89, R92: the character offered. It has no value while `out_valid` = 0 (R46: "`out_char` is unspecified and the
host must ignore it"; log entry 7). -/
def State.outChar (s : State) : Option Byte :=
  if s.outValid then
    if s.atLen then some charLF
    else s.byteAtIdx.toOption.map fun b => bitChar (s.bitOf b)
  else none

/-- R43: the port `status[2:0]` is the register. -/
def State.statusPort (s : State) : BitVec 3 := s.status

/-- R22, R47: the outcome a host may read: `status` only while `done` = 1 (log entry 19). -/
def State.outcomeCode (s : State) : Option (BitVec 3) := if s.done then some s.status else none

/-- R54: the engine's output `eng_crc`. -/
def State.engCrc (s : State) : Byte := s.crc

/-- R44: an input symbol is transferred at the coming edge. -/
def State.inTransfer (s : State) : Bool := !s.pins.rst && s.pins.inValid && s.inReady

/-- R46: an output symbol is transferred at the coming edge. -/
def State.outTransfer (s : State) : Bool := !s.pins.rst && s.outValid && s.pins.outReady

end Sys2Proof.Machine
end

