-- ==== Sys2Proof/Machine/Fetch.lean ====
section
/-! DEFINITION. Which operation happens at the coming edge (spec/30_encoding.md R44, R46, R54, R58;
spec/41_frame_decoder.md R81), and how a word of the table is placed so that the next step runs it. -/

namespace Sys2Proof.Machine

open Sys2Proof

/-- R45: the symbol word sampled at the edge. -/
def State.symWord (s : State) : SymWord := symWordOf s.pins.inEof s.pins.inChar

/-- R58: the engine's selection word at the edge. -/
def State.engWord (s : State) : EngWord :=
  engWordOf s.engBusy s.pins.engClear s.pins.engValid s.pins.engByte

/-- R58: the block's condition word. -/
def State.stateWord (s : State) : StateWord := stateWordOf s.phase.code s.engBusy s.atLen

/-- R81: the step of the frame checker enabled at an edge with `rst` = 0. RECV needs an input transfer, RENDER an
output transfer, CHECK nothing; DONE has none. -/
def fetchFrameChecker (s : State) : Option Instr :=
  match s.phase with
  | .recv => if s.pins.inValid then some (decodeSym s.symWord) else none
  | .check => (decodeState s.stateWord).toOption
  | .render => if s.pins.outReady then (decodeState s.stateWord).toOption else none
  | .done => none

/-- The operation of the coming edge, if there is one; the engine as a block of its own has one at every edge with
`rst` = 0 (R54). -/
def fetch (s : State) : Option Instr :=
  match s.block with
  | .frameChecker => fetchFrameChecker s
  | .engine => some (decodeEng s.engWord)

/-! ## Placing a word (log entry 11) -/

/-- The symbol word is offered at the next edge, in phase RECV. -/
def State.placeSym (s : State) (w : SymWord) : State :=
  { s with
    block := .frameChecker
    phase := .recv
    edges := { Pins.idle with inValid := true, inEof := symEof w, inChar := symChar w } :: s.edges }

/-- A `bitcnt` that makes the engine busy or idle, the old one where it already does. -/
def bitcntFor (busy : Bool) (old : BitVec 4) : BitVec 4 :=
  if busy then (if old = 0 then 1 else old) else 0

/-- The engine command is given at the next edge to the engine as a block of its own, busy or idle as the word says. -/
def State.placeEng (s : State) (w : EngWord) : State :=
  { s with
    block := .engine
    bitcnt := bitcntFor (engWordBusy w) s.bitcnt
    edges := { Pins.idle with engClear := engWordClear w, engValid := engWordValid w, engByte := engWordByte w } :: s.edges }

/-- R20: the phase of an encoding. -/
def phaseOfCode (c : BitVec 2) : Phase :=
  if c = 0 then .recv else if c = 1 then .check else if c = 2 then .render else .done

/-- The word's `last` holds of the state and the cells its step may load are written. -/
def State.frameFits (s : State) (last : Bool) : Bool :=
  (s.atLen == last) && decide (s.idx ≤ s.len) && s.trailer.toBool && (last || s.byteAtIdx.toBool)

/-- A one-byte frame 00 in the buffer, `idx` before it or after it. -/
def State.placeFrame (s : State) (last : Bool) : State :=
  { s with nchars := 2, idx := if last then 1 else 0, buf := s.buf.insert 0 0x00 }

/-- The condition word is made to hold: the phase, the engine busy or idle, a frame with `idx` at its end or not, and
the output taken at the next edge. -/
def State.placeState (s : State) (w : StateWord) : State :=
  let t : State :=
    { s with
      block := .frameChecker
      phase := phaseOfCode (stateWordPhase w)
      bitcnt := bitcntFor (stateWordBusy w) s.bitcnt
      edges := { Pins.idle with outReady := true } :: s.edges }
  if t.frameFits (stateWordLast w) then t else t.placeFrame (stateWordLast w)

/-- A word of a format placed for the next step. -/
def State.placeWord (s : State) (f : Format) (w : Nat) : State :=
  match f with
  | .sym => s.placeSym (BitVec.ofNat 9 w)
  | .eng => s.placeEng (BitVec.ofNat 11 w)
  | .state => s.placeState (BitVec.ofNat 4 w)

end Sys2Proof.Machine
end

