-- ==== Sys2Proof/Machine/Step.lean ====
section
/-! DEFINITION. One step: one rising edge of `clk` (spec/00_scope.md R7, spec/70_reset_and_hazards.md R115). -/

namespace Sys2Proof.Machine

open Sys2Proof

/-- R115: at an edge with `rst` = 1 the block is reset and nothing else happens; at any other edge the enabled
operation happens, if there is one, and otherwise no register changes. The edge's pin levels are used up. -/
def step (s : State) : Host.Outcome State Fault Refusal :=
  if s.pins.rst then .next s.advance.resetEdge
  else
    match fetch s with
    | some i => exec i s.advance
    | none => .next s.advance

/-- The state in which the very next step runs the word `w` of `nbits` bits of the table (log entries 10, 11). -/
def State.withFetchWord (s : State) (nbits w : Nat) : State := s.placeWord (tableFormat nbits w) w

end Sys2Proof.Machine
end

