-- ==== Sys2Proof/Machine/Functional.lean ====
section
/-! DEFINITION. The functional level of the frame decoder (spec/41_frame_decoder.md R73 to R80, R90, R91): the
function `decode_frame`, its six steps, and the result of an invocation in terms of it (R96). -/

namespace Sys2Proof.Machine

open Sys2Proof

/-- R73: the errors `decode_frame` can answer. -/
inductive DecodeFrameError where
  | malformedFrame
  | resourceLimitExceeded
  | integrityMismatch
  deriving DecidableEq, Repr

/-- R97: an error of the function as an error kind of the block. -/
def DecodeFrameError.kind : DecodeFrameError → ErrorKind
  | .malformedFrame => .malformedFrame
  | .resourceLimitExceeded => .resourceLimitExceeded
  | .integrityMismatch => .integrityMismatch

/-- R74, step 1: at most one LF is removed, only from the end. -/
def trimLine (text : List Byte) : List Byte :=
  if text.getLast? = some charLF then text.dropLast else text

/-- R51, R76, step 3: each consecutive pair of digits is one byte; `none` where a character is no digit or the last
pair is half-filled. -/
def hexPairs : List Byte → Option (List Byte)
  | [] => some []
  | [_] => none
  | a :: b :: rest =>
    match hexval a, hexval b, hexPairs rest with
    | some x, some y, some bytes => some (assembleByte x y :: bytes)
    | _, _, _ => none

/-- R78, step 5: `crc8(B) == B[len(B)-1]`. -/
def acceptFrame (bytes : List Byte) : Bool := bytes.getLast? == some (crc8 bytes)

/-- R79, step 6: every byte, trailer included, in order. -/
def renderBytes (bytes : List Byte) : List Byte := bytes.flatMap bits8

/-- R73 `decode_frame`, with `MAX_BYTES` as an argument. -/
def decodeFrame (maxBytes : Nat) (text : List Byte) : Except DecodeFrameError (List Byte) :=
  let t := trimLine text
  if 2 * maxBytes < t.length then .error .resourceLimitExceeded
  else if t.length = 0 ∨ t.length % 2 = 1 then .error .malformedFrame
  else
    match hexPairs t with
    | none => .error .malformedFrame
    | some bytes =>
      if acceptFrame bytes then .ok (renderBytes bytes) else .error .integrityMismatch

/-- R52, R96: what an invocation that ends a line of `text` leaves: the status code and the output symbols, the
newline of the output boundary after the bit characters. -/
def frameOutcome (maxBytes : Nat) (text : List Byte) : BitVec 3 × List Byte :=
  match decodeFrame maxBytes text with
  | .ok chars => (statusOk, chars ++ [charLF])
  | .error e => (e.kind.code, [])

/-- R96: the result of an invocation: InputUnavailable when the first symbol is the end-of-input marker, else the
outcome of the text. -/
def lineOutcome (maxBytes : Nat) (text : List Byte) (ended : Sym) : BitVec 3 × List Byte :=
  if text = [] ∧ ended = .eof then (ErrorKind.inputUnavailable.code, [])
  else frameOutcome maxBytes text

end Sys2Proof.Machine
end

