-- ==== Sys2Proof/Safety.lean ====
section
/-! DEFINITION. What counts as a safe run, in the terms the statements use: the state invariant (spec/10_state.md R13
to R24, 20_memory.md R40), the fail-closed policy (60_exceptions.md R105), the agreement of the step machine with the
functional level (41_frame_decoder.md R96), and the pin sequences of a line and of an engine user. -/

namespace Sys2Proof.Machine

open Sys2Proof

/-- The cell at `a` holds a value. -/
def State.written (s : State) (a : Nat) : Prop := (s.buf.lookup a).isSome = true

/-- The frame is complete: R17 ("`nchars` is even, at least 2 and at most `2*MAX_BYTES`"), R18, R19, and R40 (every
byte of the frame is written). -/
structure State.FrameReady (s : State) : Prop where
  even : s.nchars % 2 = 0
  two_le : 2 ≤ s.nchars
  le_limit : s.nchars ≤ s.textLimit
  good : s.bad = false
  idx_le : s.idx ≤ s.len
  filled : ∀ i, i < s.len → s.written i

/-- The invariant of the machine's state. -/
structure State.Inv (s : State) : Prop where
  /-- The buffer's canonical form. -/
  memory_wf : s.buf.wf = true
  /-- R24, R32: only cells below `MAX_BYTES` exist. -/
  memory_range : ∀ cell ∈ s.buf, cell.1 < s.cfg.maxBytes
  /-- R17: the character counter saturates. -/
  nchars_le : s.nchars ≤ s.textLimit + 1
  /-- R9, R19: the index fits its width. -/
  idx_le : s.idx ≤ s.cfg.maxBytes
  /-- R15: "the values 9 to 15 are never reached". -/
  bitcnt_le : s.bitcnt.toNat ≤ 8
  /-- R22: "Values 5, 6 and 7 are never written". -/
  status_le : s.status.toNat ≤ 4
  /-- R22: "While `phase` is not DONE, `status` holds its reset value 0". -/
  status_zero : s.phase ≠ .done → s.status = 0
  /-- R40: while no non-hex character was consumed, every pair within the limit is stored. -/
  received : s.phase = .recv → s.bad = false → ∀ i, i < min s.nchars s.textLimit / 2 → s.written i
  /-- R17, R40: in CHECK and RENDER the frame is complete. -/
  frame : s.phase = .check ∨ s.phase = .render → s.FrameReady
  /-- R125: inside the block the engine is idle but in CHECK. -/
  engine_idle : s.block = .frameChecker → s.phase ≠ .check → s.bitcnt = 0
  /-- R21, R89: RENDER reaches the newline with `bitidx` reloaded. -/
  bit_reloaded : s.phase = .render → s.idx = s.len → s.bitidx = 7

/-- R105, R120: nothing is sent before the frame is accepted, and nothing in an invocation that ends in an error. -/
def State.FailClosed (s : State) : Prop :=
  (s.phase = .recv ∨ s.phase = .check → s.sent = []) ∧ (s.phase = .done → s.status ≠ 0 → s.sent = [])

/-- R128: "A run of the block is over when `phase == DONE`". -/
def State.final (s : State) : Prop := s.phase = .done

/-! ## Agreement with the functional level (R96) -/

/-- A symbol that ends a line: LF or the end-of-input marker. -/
def Sym.endsLine (x : Sym) : Prop := x = .eof ∨ x = .char charLF

/-- The symbols transferred so far are the characters of `text`, none of them LF, and the line has not ended. -/
def State.lineOpen (s : State) (text : List Byte) : Prop :=
  s.taken = text.map .char ∧ charLF ∉ text

/-- The symbols transferred are the characters of `text`, none of them LF, and the symbol that ended the line. -/
def State.lineEnded (s : State) (text : List Byte) (ended : Sym) : Prop :=
  s.taken = text.map .char ++ [ended] ∧ charLF ∉ text ∧ ended.endsLine

/-- R55 `valid`: the text decodes to the nonempty byte sequence `bytes` and is within the limit. -/
def validText (maxBytes : Nat) (text bytes : List Byte) : Prop :=
  text.length ≤ 2 * maxBytes ∧ hexPairs text = some bytes ∧ bytes ≠ []

/-- R24: "byte `i` of the frame at address `i`". -/
def State.holds (s : State) (bytes : List Byte) : Prop :=
  ∀ i b, bytes[i]? = some b → s.buf.lookup i = some b

/-- In RECV: the counter, the sticky flag, the stored pairs and the digit held are those of the text so far. -/
def State.receivedText (s : State) (text : List Byte) : Prop :=
  s.lineOpen text ∧
  s.nchars = min text.length (s.textLimit + 1) ∧
  s.bad = text.any (fun c => !isHexDigit c) ∧
  s.sent = [] ∧
  (s.bad = false → s.nchars ≤ s.textLimit →
    (∀ bytes, hexPairs (text.take (2 * (text.length / 2))) = some bytes → s.holds bytes) ∧
    (text.length % 2 = 1 → text.getLast?.bind hexval = some s.hi))

/-- In CHECK: the frame is in the buffer, and the bit steps still owed take `crc` to the checksum of the bytes
absorbed. -/
def State.checkingFrame (s : State) (text : List Byte) (ended : Sym) (bytes : List Byte) : Prop :=
  s.lineEnded text ended ∧ validText s.cfg.maxBytes text bytes ∧ s.len = bytes.length ∧ s.holds bytes ∧
  s.idx ≤ bytes.length ∧ bitsteps s.bitcnt.toNat s.crc = crc8 (bytes.take s.idx) ∧ s.sent = []

/-- In RENDER: the frame was accepted, and what is sent is the start of its bit string. -/
def State.renderingFrame (s : State) (text : List Byte) (ended : Sym) (bytes : List Byte) : Prop :=
  s.lineEnded text ended ∧ validText s.cfg.maxBytes text bytes ∧ s.len = bytes.length ∧ s.holds bytes ∧
  s.idx ≤ bytes.length ∧ acceptFrame bytes = true ∧
  s.sent = (renderBytes bytes).take (8 * s.idx + (7 - s.bitidx.toNat))

/-- In DONE: the status and the symbols sent are the outcome of the line that was transferred. -/
def State.finishedLine (s : State) (text : List Byte) (ended : Sym) : Prop :=
  s.lineEnded text ended ∧ (s.status, s.sent) = lineOutcome s.cfg.maxBytes text ended

/-- R7, R96: the step machine agrees with `decode_frame` on the line it consumed. -/
def State.Agrees (s : State) : Prop :=
  match s.phase with
  | .recv => ∃ text, s.receivedText text
  | .check => ∃ text ended bytes, s.checkingFrame text ended bytes
  | .render => ∃ text ended bytes, s.renderingFrame text ended bytes
  | .done => ∃ text ended, s.finishedLine text ended

/-! ## Pin sequences -/

/-- An edge at which a symbol is offered and nothing else. -/
def Sym.offered : Sym → Pins
  | .char c => { Pins.idle with inValid := true, inChar := c }
  | .eof => { Pins.idle with inValid := true, inEof := true }

/-- An edge at which the downstream host is ready. -/
def Pins.ready : Pins := { Pins.idle with outReady := true }

/-- R129, "both hosts always ready": the symbols of a line, one an edge, then `n` edges with `out_ready` = 1. -/
def lineEdges (text : List Byte) (ended : Sym) (n : Nat) : List Pins :=
  text.map (fun c => (Sym.char c).offered) ++ ended.offered :: List.replicate n Pins.ready

/-- R68: the edges of a user of the engine as a block of its own who feeds it `bytes`: idle edges between bytes, one
ENG.ABSORB command per byte, then eight edges on which anything but ENG.CLR may be commanded (a byte offered then is
ignored, R125). -/
inductive EngineFeed : List Pins → List Byte → Prop where
  | done : EngineFeed [] []
  | idle (p : Pins) (rest : List Pins) (bytes : List Byte) :
      p.rst = false → p.engClear = false → p.engValid = false →
      EngineFeed rest bytes → EngineFeed (p :: rest) bytes
  | byte (p : Pins) (busy rest : List Pins) (bytes : List Byte) :
      p.rst = false → p.engClear = false → p.engValid = true →
      busy.length = 8 → (∀ q ∈ busy, q.rst = false ∧ q.engClear = false) →
      EngineFeed rest bytes → EngineFeed (p :: (busy ++ rest)) (p.engByte :: bytes)

end Sys2Proof.Machine
end

