-- ==== Sys2Proof/Certificates/Slice0/Obligations.lean ====
section
/-! DEFINITION. The statements for the provers. A rule number R<n> is one of spec/. -/

open Sys2Proof Sys2Proof.Machine

/-! ## Reset and the step -/

/-- R30: every register's reset value, the buffer cells holding no value, and the outputs after reset (`out_char` is
unspecified there). -/
def Obligations.ResetStateValues : Prop :=
  State.reset.crc = 0x00 ∧ State.reset.bitcnt = 0 ∧ State.reset.phase = .recv ∧ State.reset.phase.code = 0 ∧
  State.reset.nchars = 0 ∧ State.reset.hi = 0 ∧ State.reset.bad = false ∧ State.reset.idx = 0 ∧
  State.reset.bitidx = 7 ∧ State.reset.status = 0 ∧ (∀ a, State.reset.buf.lookup a = none) ∧
  State.reset.done = false ∧ State.reset.inReady = true ∧ State.reset.outValid = false

/-- R116: an edge with `rst` = 1, whatever the other pins and the state are, sets every register, leaves no cell with
a value, and keeps the build parameter; so two states of one build that differ in any register, in the buffer or in
the pins are the same state after it. -/
def Obligations.ResetEdgeSetsEveryRegister : Prop :=
  (∀ s : State, s.pins.rst = true →
    ∃ t, step s = .next t ∧ t.crc = 0x00 ∧ t.bitcnt = 0 ∧ t.phase = .recv ∧ t.nchars = 0 ∧ t.hi = 0 ∧ t.bad = false ∧
      t.idx = 0 ∧ t.bitidx = 7 ∧ t.status = 0 ∧ (∀ a, t.buf.lookup a = none) ∧ t.cfg = s.cfg ∧ t.block = s.block ∧
      t.edges = s.edges.tail) ∧
  ∀ s s' : State, s.pins.rst = true → s'.pins.rst = true → s.cfg = s'.cfg → s.block = s'.block →
    s.edges.tail = s'.edges.tail → step s = step s'

/-- A step runs the decoded operation (R44, R46, R54, R58, R81): the word sampled or formed at the edge decodes to `i`,
and the step is `exec i` once the edge's pin levels are used up; where no operation is selected, only they are. -/
def Obligations.StepRunsSelectedOperation : Prop :=
  ∀ s : State, s.pins.rst = false →
    (s.block = .frameChecker → s.phase = .recv → s.pins.inValid = true →
      ∀ i, decode .sym (symWordOf s.pins.inEof s.pins.inChar).toNat = .ok i → step s = exec i s.advance) ∧
    (s.block = .frameChecker → s.phase = .check →
      ∀ i, decode .state (stateWordOf s.phase.code s.engBusy s.atLen).toNat = .ok i → step s = exec i s.advance) ∧
    (s.block = .frameChecker → s.phase = .render → s.pins.outReady = true →
      ∀ i, decode .state (stateWordOf s.phase.code s.engBusy s.atLen).toNat = .ok i → step s = exec i s.advance) ∧
    (s.block = .engine →
      ∀ i, decode .eng (engWordOf s.engBusy s.pins.engClear s.pins.engValid s.pins.engByte).toNat = .ok i →
        step s = exec i s.advance) ∧
    (s.block = .frameChecker →
      (s.phase = .recv ∧ s.pins.inValid = false) ∨ (s.phase = .render ∧ s.pins.outReady = false) ∨ s.phase = .done →
      step s = .next s.advance)

/-- The host's interface of this model (log entry 11): a word that the table numbers, placed for the next step, is the
operation that step runs, from any state. -/
def Obligations.PlacedWordRunsNext : Prop :=
  ∀ (s : State) (nbits w : Nat) (i : Instr), decodeTableWord nbits w = some i →
    step (s.withFetchWord nbits w) = exec i (s.withFetchWord nbits w).advance

/-! ## Encodings -/

/-- Words written out from spec/opcode_table.json and R58 decode to the operations they stand for. -/
def Obligations.TableWordsDecode : Prop :=
  decode .sym 0b000110000 = .ok .recvHex0 ∧ decode .sym 0b000111001 = .ok .recvHex9 ∧
  decode .sym 0b001000001 = .ok .recvHexUpperA ∧ decode .sym 0b001000110 = .ok .recvHexUpperF ∧
  decode .sym 0b001100001 = .ok .recvHexLowerA ∧ decode .sym 0b001100110 = .ok .recvHexLowerF ∧
  decode .sym 0b000001010 = .ok .recvLf ∧ decode .sym 0b100000000 = .ok .recvEof ∧
  decode .sym 0b111111111 = .ok .recvEof ∧ decode .sym 0b000100000 = .ok (.recvOther 0x20) ∧
  decode .eng 0b01000000000 = .ok .engClr ∧ decode .eng 0b10111111111 = .ok .engBitstep ∧
  decode .eng 0b00100110010 = .ok (.engAbsorb 0x32) ∧ decode .eng 0b00000000000 = .ok .engIdle ∧
  decode .state 0b0100 = .ok .checkAbsorb ∧ decode .state 0b0110 = .ok .checkBitstep ∧
  decode .state 0b0101 = .ok .checkVerify ∧ decode .state 0b1000 = .ok .renderBit ∧
  decode .state 0b1001 = .ok .renderLf ∧ decode .state 0b0000 = .error .noRowInRecv ∧
  decode .state 0b1100 = .error .noRowInDone

/-- For every well-formed operation, with every operand its encoding admits, decoding its encoding gives it back. -/
def Obligations.DecodeOfEncodeIsIdentity : Prop :=
  ∀ i : Instr, i.wf = true → decode (encode i).1 (encode i).2 = .ok i

/-- What the decoder answers is well formed, belongs to the format it was read from, and its canonical word decodes to
the same operation. -/
def Obligations.DecodedOperationsAreWellFormed : Prop :=
  ∀ (f : Format) (w : Nat) (i : Instr), decode f w = .ok i →
    i.wf = true ∧ (encode i).1 = f ∧ decode f (encode i).2 = .ok i

/-- R48: every symbol word belongs to exactly one class, which selects the step; 256 words are EOF, 1 is LF, 22 are HEX
and 233 are OTHER. -/
def Obligations.SymbolClassesPartitionWords : Prop :=
  (∀ w : SymWord, symEof w = true → decodeSym w = .recvEof) ∧
  (∀ w : SymWord, symEof w = false → symChar w = 0x0A → decodeSym w = .recvLf) ∧
  (∀ w : SymWord, symEof w = false → ∀ r ∈ hexRows, symChar w = r.1 → decodeSym w = r.2.2) ∧
  (∀ w : SymWord, symEof w = false → symChar w ≠ 0x0A → isHexDigit (symChar w) = false →
    decodeSym w = .recvOther (symChar w)) ∧
  (∀ c : Byte, isHexDigit c = true ↔ c ∈ hexRows.map (·.1)) ∧ hexRows.length = 22 ∧
  ((List.range 512).filter fun n => decodeSym (BitVec.ofNat 9 n) == .recvEof).length = 256 ∧
  ((List.range 512).filter fun n => decodeSym (BitVec.ofNat 9 n) == .recvLf).length = 1 ∧
  ((List.range 512).filter fun n => hexRows.any fun r => decodeSym (BitVec.ofNat 9 n) == r.2.2).length = 22 ∧
  ((List.range 512).filter fun n =>
    decodeSym (BitVec.ofNat 9 n) == .recvOther (symChar (BitVec.ofNat 9 n))).length = 233

/-- R54, R58: the four disjoint patterns of the engine's selection word and the six of the condition word. -/
def Obligations.SelectionWordsFollowOpcodeMap : Prop :=
  (∀ w : EngWord, w &&& 0x200 = 0x200 → decodeEng w = .engClr) ∧
  (∀ w : EngWord, w &&& 0x600 = 0x400 → decodeEng w = .engBitstep) ∧
  (∀ w : EngWord, w &&& 0x700 = 0x100 → decodeEng w = .engAbsorb (w.setWidth 8)) ∧
  (∀ w : EngWord, w &&& 0x700 = 0x000 → decodeEng w = .engIdle) ∧
  (∀ w : EngWord, w &&& 0x200 = 0x200 ∨ w &&& 0x600 = 0x400 ∨ w &&& 0x700 = 0x100 ∨ w &&& 0x700 = 0x000) ∧
  (∀ w : StateWord, w &&& 0xF = 0x4 → decodeState w = .ok .checkAbsorb) ∧
  (∀ w : StateWord, w &&& 0xE = 0x6 → decodeState w = .ok .checkBitstep) ∧
  (∀ w : StateWord, w &&& 0xF = 0x5 → decodeState w = .ok .checkVerify) ∧
  (∀ w : StateWord, w &&& 0xD = 0x8 → decodeState w = .ok .renderBit) ∧
  (∀ w : StateWord, w &&& 0xD = 0x9 → decodeState w = .ok .renderLf) ∧
  (∀ w : StateWord, w &&& 0xC = 0x0 → decodeState w = .error .noRowInRecv) ∧
  (∀ w : StateWord, w &&& 0xC = 0xC → decodeState w = .error .noRowInDone)

/-- R50: the digit value of a character code, and no value for every other code. -/
def Obligations.HexDigitValues : Prop :=
  (∀ c : Byte, 0x30 ≤ c → c ≤ 0x39 → hexval c = some (c.setWidth 4)) ∧
  (∀ c : Byte, (0x41 ≤ c ∧ c ≤ 0x46) ∨ (0x61 ≤ c ∧ c ≤ 0x66) → hexval c = some (c.setWidth 4 + 9)) ∧
  (∀ c : Byte, ¬(0x30 ≤ c ∧ c ≤ 0x39) → ¬(0x41 ≤ c ∧ c ≤ 0x46) → ¬(0x61 ≤ c ∧ c ≤ 0x66) → hexval c = none) ∧
  hexval 0x61 = some 10 ∧ hexval 0x41 = some 10 ∧ hexval 0x66 = some 15 ∧ hexval 0x46 = some 15 ∧
  (∀ r ∈ hexRows, hexval r.1 = some r.2.1)

/-- R35, R51: characters `2i` and `2i+1` of a text form byte `i`, the first digit the more-significant nibble. -/
def Obligations.HexPairsAssembleBytes : Prop :=
  (∀ x y : Nibble, (assembleByte x y).toNat = x.toNat * 16 + y.toNat) ∧
  (∀ (text bytes : List Byte), hexPairs text = some bytes →
    text.length = 2 * bytes.length ∧
    ∀ i b, bytes[i]? = some b →
      ∃ x y, text[2 * i]?.bind hexval = some x ∧ text[2 * i + 1]?.bind hexval = some y ∧ b = assembleByte x y) ∧
  (∀ text : List Byte, text.length % 2 = 0 → (∀ c ∈ text, isHexDigit c = true) → ∃ bytes, hexPairs text = some bytes) ∧
  hexPairs [0x30, 0x31, 0x30, 0x37] = some [0x01, 0x07] ∧
  hexPairs [0x66, 0x44, 0x46, 0x64, 0x66, 0x64, 0x46, 0x44] = some [0xFD, 0xFD, 0xFD, 0xFD] ∧
  hexPairs [0x31, 0x30] = some [0x10]

/-- R90: the bit characters of a byte, bit 7 first, always eight. -/
def Obligations.Bits8MostSignificantFirst : Prop :=
  (∀ b : Byte, (bits8 b).length = 8) ∧
  (∀ (b : Byte) (i : Nat), i < 8 → (bits8 b)[i]? = some (0x30 ||| (BitVec.ofBool (b.getLsbD (7 - i))).setWidth 8)) ∧
  bits8 0x01 = [0x30, 0x30, 0x30, 0x30, 0x30, 0x30, 0x30, 0x31] ∧
  bits8 0x80 = [0x31, 0x30, 0x30, 0x30, 0x30, 0x30, 0x30, 0x30] ∧
  bits8 0xFD = [0x31, 0x31, 0x31, 0x31, 0x31, 0x31, 0x30, 0x31] ∧
  bits8 0x00 = [0x30, 0x30, 0x30, 0x30, 0x30, 0x30, 0x30, 0x30]

/-! ## The checksum -/

/-- R61: `bitstep` by its formula on numbers, and bit by bit. -/
def Obligations.BitstepIsPolynomialStep : Prop :=
  (∀ c : Byte, (bitstep c).toNat =
    if c.getLsbD 7 then ((c.toNat * 2) ^^^ 0x07) % 256 else (c.toNat * 2) % 256) ∧
  (∀ c : Byte, (bitstep c).getLsbD 0 = c.getLsbD 7 ∧
    (bitstep c).getLsbD 1 = (c.getLsbD 0 ^^ c.getLsbD 7) ∧
    (bitstep c).getLsbD 2 = (c.getLsbD 1 ^^ c.getLsbD 7) ∧
    ∀ j, 3 ≤ j → j ≤ 7 → (bitstep c).getLsbD j = c.getLsbD (j - 1)) ∧
  (∀ c : Byte, c.getLsbD 7 = true ↔ c &&& 0x80 ≠ 0)

/-- R59: the loop of `crc8`, one byte more at the end of the sequence; R71's vectors. -/
def Obligations.Crc8FollowsTheLoop : Prop :=
  crc8 [] = 0 ∧
  (∀ (bytes : List Byte) (b : Byte), crc8 (bytes ++ [b]) =
    Nat.iterate (fun c : Byte => if c &&& 0x80 ≠ 0 then (c <<< 1) ^^^ 0x07 else c <<< 1) 8 (crc8 bytes ^^^ b)) ∧
  crc8 [0x00] = 0 ∧ crc8 [0x31, 0x32, 0x33, 0x34] = 0xC2

/-- R70: chaining, linearity, zero bytes, the one-byte table a bijection, the conventional self-check. -/
def Obligations.CrcAlgebraicLaws : Prop :=
  (∀ (bytes : List Byte) (b : Byte), crc8 (bytes ++ [b]) = crc8 [crc8 bytes ^^^ b]) ∧
  (∀ a b : Byte, bitstep (a ^^^ b) = bitstep a ^^^ bitstep b) ∧
  (∀ as bs : List Byte, as.length = bs.length →
    crc8 (List.zipWith (fun a b => a ^^^ b) as bs) = crc8 as ^^^ crc8 bs) ∧
  (∀ n : Nat, crc8 (List.replicate n 0x00) = 0x00) ∧
  (∀ bytes : List Byte, crc8 (0x00 :: bytes) = crc8 bytes) ∧
  Function.Bijective (fun x : Byte => crc8 [x]) ∧
  (∀ bytes : List Byte, crc8 (bytes ++ [crc8 bytes]) = 0x00)

/-- R95: what the accept rule admits. A conventional trailer is accepted only when it is 0; the one-byte frames
accepted are 00 and FD; all-zero frames are accepted; an accepted trailer has exactly one companion, its XOR with FD;
the frame 01 07 is rejected. -/
def Obligations.AcceptRuleConsequences : Prop :=
  (∀ (payload : List Byte) (t : Byte),
    acceptFrame (payload ++ [t]) = true ↔ crc8 [crc8 payload ^^^ t] = t) ∧
  (∀ payload : List Byte, acceptFrame (payload ++ [crc8 payload]) = true ↔ crc8 payload = 0x00) ∧
  (∀ t : Byte, acceptFrame [t] = true ↔ t = 0x00 ∨ t = 0xFD) ∧
  (∀ n : Nat, acceptFrame (List.replicate (n + 1) 0x00) = true) ∧
  (∀ (payload : List Byte) (t u : Byte), acceptFrame (payload ++ [t]) = true →
    (acceptFrame (payload ++ [u]) = true ↔ u = t ∨ u = t ^^^ 0xFD)) ∧
  (∀ t : Byte, acceptFrame [0x01, t] = false)

/-! ## The function `decode_frame` -/

/-- R73 (with the tests of R74 to R79 and the priority of R103): exactly when `decode_frame` answers each error, and what it answers on accept. -/
def Obligations.DecodeFrameOutcomes : Prop :=
  ∀ (maxBytes : Nat) (text : List Byte),
    (decodeFrame maxBytes text = .error .resourceLimitExceeded ↔ 2 * maxBytes < (trimLine text).length) ∧
    (decodeFrame maxBytes text = .error .malformedFrame ↔
      (trimLine text).length ≤ 2 * maxBytes ∧
      ((trimLine text).length = 0 ∨ (trimLine text).length % 2 = 1 ∨ ∃ c ∈ trimLine text, isHexDigit c = false)) ∧
    (decodeFrame maxBytes text = .error .integrityMismatch ↔
      (trimLine text).length ≤ 2 * maxBytes ∧
      ∃ bytes, bytes ≠ [] ∧ hexPairs (trimLine text) = some bytes ∧ bytes.getLast? ≠ some (crc8 bytes)) ∧
    (∀ out, decodeFrame maxBytes text = .ok out ↔
      (trimLine text).length ≤ 2 * maxBytes ∧
      ∃ bytes, bytes ≠ [] ∧ hexPairs (trimLine text) = some bytes ∧ bytes.getLast? = some (crc8 bytes) ∧
        out = bytes.flatMap bits8)

/-- R74: at most one terminator is removed, only from the end, and nothing else is: a text ending in two LFs, and a
leading or trailing space, tab or CR, is malformed. -/
def Obligations.TrimRemovesOneTerminator : Prop :=
  (∀ text : List Byte, trimLine (text ++ [0x0A]) = text) ∧
  (∀ (text : List Byte) (c : Byte), c ≠ 0x0A → trimLine (text ++ [c]) = text ++ [c]) ∧
  trimLine [] = [] ∧
  (∀ (maxBytes : Nat) (text : List Byte), text.getLast? ≠ some 0x0A →
    decodeFrame maxBytes (text ++ [0x0A]) = decodeFrame maxBytes text) ∧
  (∀ (maxBytes : Nat) (text : List Byte), text.length + 1 ≤ 2 * maxBytes →
    decodeFrame maxBytes (text ++ [0x0A, 0x0A]) = .error .malformedFrame) ∧
  (∀ (maxBytes : Nat) (text : List Byte) (c : Byte), text.length + 1 ≤ 2 * maxBytes → isHexDigit c = false →
    c ≠ 0x0A →
    decodeFrame maxBytes (text ++ [c]) = .error .malformedFrame ∧
    decodeFrame maxBytes (c :: text) = .error .malformedFrame) ∧
  isHexDigit 0x20 = false ∧ isHexDigit 0x09 = false ∧ isHexDigit 0x0D = false

/-- R91: an accepted frame's output covers every byte, trailer included: eight characters a byte, each '0' or '1',
regrouped in eights giving the bytes back. -/
def Obligations.RenderedFrameReproducesBytes : Prop :=
  ∀ (maxBytes : Nat) (text out : List Byte), decodeFrame maxBytes text = .ok out →
    ∃ bytes, hexPairs (trimLine text) = some bytes ∧ out.length = 8 * bytes.length ∧
      (∀ c ∈ out, c = 0x30 ∨ c = 0x31) ∧
      ∀ i b, bytes[i]? = some b → (out.drop (8 * i)).take 8 = bits8 b ∧
        ∀ c : Byte, (out.drop (8 * i)).take 8 = bits8 c → c = b

/-! ## The engine's operations -/

/-- R63 ENG.CLR: from any state, whatever `bitcnt` is and whatever `eng_valid` and `eng_byte` are. -/
def Obligations.EngClrEffect : Prop :=
  (∀ s : State, exec .engClr s = .next { s with crc := 0x00, bitcnt := 0 }) ∧
  (∀ w : EngWord, w.getLsbD 9 = true → decodeEng w = .engClr) ∧
  (∀ s t : State, exec .engClr s = .next t → t.engCrc = crc8 [] ∧ t.engBusy = false)

/-- R64 ENG.ABSORB: taken when `bitcnt == 0`; while busy the byte is not absorbed and ENG.BITSTEP happens instead. -/
def Obligations.EngAbsorbEffect : Prop :=
  (∀ (s : State) (b : Byte), s.bitcnt = 0 →
    exec (.engAbsorb b) s = .next { s with crc := s.crc ^^^ b, bitcnt := 8 }) ∧
  (∀ (s : State) (b : Byte), s.bitcnt ≠ 0 →
    exec (.engAbsorb b) s = .next { s with crc := bitstep s.crc, bitcnt := s.bitcnt - 1 }) ∧
  (∀ b : Byte, decode .eng (engWordOf false false true b).toNat = .ok (.engAbsorb b)) ∧
  (∀ s : State, s.crc ^^^ 0x00 = s.crc ∧ s.crc ^^^ s.crc = 0x00) ∧ bitsteps 8 0x00 = 0x00

/-- R65 ENG.BITSTEP: the step of a busy engine, and `bitstep`'s corner cases. -/
def Obligations.EngBitstepEffect : Prop :=
  (∀ s : State, s.bitcnt ≠ 0 →
    exec .engBitstep s = .next { s with crc := bitstep s.crc, bitcnt := s.bitcnt - 1 }) ∧
  (∀ w : EngWord, w.getLsbD 9 = false → w.getLsbD 10 = true → decodeEng w = .engBitstep) ∧
  bitstep 0x00 = 0x00 ∧ bitstep 0x80 = 0x07 ∧ bitstep 0xFF = 0xF9 ∧
  (∀ c : Byte, bitstep c = c ↔ c = 0x00 ∨ c = 0xFD) ∧
  (∀ s : State, s.bitcnt = 1 → s.engBitstep.engBusy = false)

/-- R66 ENG.IDLE: no register of an idle engine changes. Given to a busy engine it is, like any command but ENG.CLR, a
bit step (R54's priority; the model's reading, log entry 9). -/
def Obligations.EngIdleEffect : Prop :=
  (∀ s : State, s.bitcnt = 0 → exec .engIdle s = .next s) ∧
  (∀ s : State, s.bitcnt ≠ 0 → exec .engIdle s = .next { s with crc := bitstep s.crc, bitcnt := s.bitcnt - 1 }) ∧
  (∀ w : EngWord, w.getLsbD 9 = false → w.getLsbD 10 = false → w.getLsbD 8 = false → decodeEng w = .engIdle)

/-- R67, R68, R125: an engine taken as a block of its own, cleared and then fed the bytes of any sequence, with any
number of idle edges between bytes and any offers while busy, ends idle with the checksum of the sequence. The engine's
block, the list of edges and the count of edges are the model's (log entries 4, 2 and 15). -/
def Obligations.EngineComputesCrc8OnAnyFeed : Prop :=
  ∀ (s : State) (p : Pins) (feed rest : List Pins) (bytes : List Byte),
    s.block = .engine → p.rst = false → p.engClear = true → EngineFeed feed bytes →
    s.edges = p :: (feed ++ rest) →
    Host.Core.run Sys2Proof.core (1 + feed.length) s =
      .next { s with crc := crc8 bytes, bitcnt := 0, edges := rest }

/-! ## Reception -/

/-- R82 RECV.HEX, all 22 rows: RECV.HEX.0 to RECV.HEX.9, RECV.HEX.A to RECV.HEX.F, RECV.HEX.a to RECV.HEX.f. Here and
below, the model's own record of transferred symbols is left open (statement TransfersAreRecorded says what it holds). -/
def Obligations.RecvHexEffect : Prop :=
  hexRows.map (·.2.2) =
    [.recvHex0, .recvHex1, .recvHex2, .recvHex3, .recvHex4, .recvHex5, .recvHex6, .recvHex7, .recvHex8, .recvHex9,
     .recvHexUpperA, .recvHexUpperB, .recvHexUpperC, .recvHexUpperD, .recvHexUpperE, .recvHexUpperF,
     .recvHexLowerA, .recvHexLowerB, .recvHexLowerC, .recvHexLowerD, .recvHexLowerE, .recvHexLowerF] ∧
  ∀ r ∈ hexRows, decode .sym r.1.toNat = .ok r.2.2 ∧ hexval r.1 = some r.2.1 ∧
    ∀ s : State, s.phase = .recv → ∃ record,
      exec r.2.2 s = .next
        { s with
          hi := if s.nchars < 2 * s.cfg.maxBytes ∧ s.nchars % 2 = 0 then r.2.1 else s.hi
          buf := if s.nchars < 2 * s.cfg.maxBytes ∧ s.nchars % 2 = 1
            then s.buf.insert (s.nchars / 2) (assembleByte s.hi r.2.1) else s.buf
          nchars := min (s.nchars + 1) (2 * s.cfg.maxBytes + 1)
          taken := record }

/-- The frame of RECV.HEX, all 22 rows (R33, R39, R82): the cell `nchars >> 1` reads as the byte stored when one is,
every other cell reads as before, and no register but `hi` and `nchars` changes. -/
def Obligations.RecvHexFrame : Prop :=
  ∀ r ∈ hexRows, ∀ s t : State, s.phase = .recv → exec r.2.2 s = .next t →
    (∀ a, t.memRead a =
      if s.nchars < s.textLimit ∧ s.nchars % 2 = 1 ∧ a = s.storeAddr then .ok (assembleByte s.hi r.2.1)
      else s.memRead a) ∧
    (¬(s.nchars < s.textLimit ∧ s.nchars % 2 = 0) → t.hi = s.hi) ∧
    t.crc = s.crc ∧ t.bitcnt = s.bitcnt ∧ t.phase = s.phase ∧ t.bad = s.bad ∧ t.idx = s.idx ∧ t.bitidx = s.bitidx ∧
    t.status = s.status ∧ t.cfg = s.cfg ∧ t.block = s.block ∧ t.edges = s.edges ∧ t.sent = s.sent

/-- R83 RECV.OTHER, every one of the 233 characters: `bad` is set, the character is counted, nothing is stored. -/
def Obligations.RecvOtherEffect : Prop :=
  ∀ c : Byte, (Instr.recvOther c).wf = true → decode .sym c.toNat = .ok (.recvOther c) ∧
    ∀ s : State, s.phase = .recv → ∃ record,
      exec (.recvOther c) s = .next
        { s with bad := true, nchars := min (s.nchars + 1) (2 * s.cfg.maxBytes + 1), taken := record }

/-- R84 RECV.LF: the three outcomes of the end of a line (R86), in the order of their tests; the LF is not counted. -/
def Obligations.RecvLfEffect : Prop :=
  decode .sym 0x0A = .ok .recvLf ∧
  ∀ s : State, s.phase = .recv → ∃ record,
    (2 * s.cfg.maxBytes < s.nchars →
      exec .recvLf s = .next { s with status := 3, phase := .done, taken := record }) ∧
    (s.nchars ≤ 2 * s.cfg.maxBytes → s.nchars = 0 ∨ s.nchars % 2 = 1 ∨ s.bad = true →
      exec .recvLf s = .next { s with status := 2, phase := .done, taken := record }) ∧
    (s.nchars ≤ 2 * s.cfg.maxBytes → s.nchars ≠ 0 → s.nchars % 2 = 0 → s.bad = false →
      exec .recvLf s = .next
        { s with crc := 0x00, bitcnt := 0, idx := 0, phase := .check, taken := record })

/-- R85 RECV.EOF: InputUnavailable before any character, else the end of an unterminated line (R86). It cannot come
after an LF, which ends RECV. -/
def Obligations.RecvEofEffect : Prop :=
  (∀ c : Byte, decode .sym (0x100 + c.toNat) = .ok .recvEof) ∧
  (∀ s t : State, s.phase = .recv → exec .recvLf s = .next t → t.inReady = false) ∧
  ∀ s : State, s.phase = .recv → ∃ record,
    (s.nchars = 0 →
      exec .recvEof s = .next { s with status := 1, phase := .done, taken := record }) ∧
    (2 * s.cfg.maxBytes < s.nchars →
      exec .recvEof s = .next { s with status := 3, phase := .done, taken := record }) ∧
    (s.nchars ≤ 2 * s.cfg.maxBytes → s.nchars ≠ 0 → s.nchars % 2 = 1 ∨ s.bad = true →
      exec .recvEof s = .next { s with status := 2, phase := .done, taken := record }) ∧
    (s.nchars ≤ 2 * s.cfg.maxBytes → s.nchars ≠ 0 → s.nchars % 2 = 0 → s.bad = false →
      exec .recvEof s = .next
        { s with crc := 0x00, bitcnt := 0, idx := 0, phase := .check, taken := record })

/-- R104: `raise` writes the code and moves to DONE, and nothing else; the ports at the next edge. -/
def Obligations.RaiseWritesStatusAndPhaseOnly : Prop :=
  (∀ (s : State) (e : ErrorKind), s.raise e = { s with status := e.code, phase := .done }) ∧
  ErrorKind.inputUnavailable.code = 1 ∧ ErrorKind.malformedFrame.code = 2 ∧
  ErrorKind.resourceLimitExceeded.code = 3 ∧ ErrorKind.integrityMismatch.code = 4 ∧
  (∀ (s : State) (e : ErrorKind), (s.raise e).done = true ∧ (s.raise e).inReady = false ∧ (s.raise e).outValid = false)

/-! ## Checking -/

/-- R87 CHECK.ABSORB: the byte `buf[idx]` enters the engine. -/
def Obligations.CheckAbsorbEffect : Prop :=
  decode .state 0b0100 = .ok .checkAbsorb ∧
  ∀ (s : State) (b : Byte), s.phase = .check → s.bitcnt = 0 → s.idx < s.nchars / 2 → s.memRead s.idx = .ok b →
    exec .checkAbsorb s = .next { s with crc := s.crc ^^^ b, bitcnt := 8, idx := s.idx + 1 }

/-- R93 CHECK.BITSTEP: one bit step; `idx` unchanged. -/
def Obligations.CheckBitstepEffect : Prop :=
  decode .state 0b0110 = .ok .checkBitstep ∧ decode .state 0b0111 = .ok .checkBitstep ∧
  ∀ s : State, s.phase = .check → s.bitcnt ≠ 0 →
    exec .checkBitstep s = .next { s with crc := bitstep s.crc, bitcnt := s.bitcnt - 1 }

/-- R87, R93, R67: in CHECK a byte takes nine edges, whatever the hosts do but reset, and leaves the checksum one byte
further. The count of edges is the reference machine's, on the model's list of edges (log entries 15 and 2). -/
def Obligations.CheckAbsorbsByteInNineSteps : Prop :=
  ∀ (s : State) (b : Byte) (nine rest : List Pins), s.block = .frameChecker → s.phase = .check → s.bitcnt = 0 →
    s.idx < s.len → s.memRead s.idx = .ok b → nine.length = 9 → (∀ p ∈ nine, p.rst = false) →
    s.edges = nine ++ rest →
    Host.Core.run Sys2Proof.core 9 s =
      .next { s with crc := crcByte s.crc b, bitcnt := 0, idx := s.idx + 1, edges := rest }

/-- R88 CHECK.VERIFY: the comparison of `crc` with the trailer. A frame in the buffer, absorbed from CHECK's start,
reaches it with `crc` the checksum of the whole frame, and is accepted exactly when that is its last byte (R67, R68,
R106). The counts of edges, `9*len` and `9*len + 1`, are those of the reference machine, no time of every implementation
(DESIGN CHOICE, unsafe, log entry 15), on the model's list of edges (log entry 2). -/
def Obligations.CheckVerifyEffect : Prop :=
  decode .state 0b0101 = .ok .checkVerify ∧
  (∀ (s : State) (t : Byte), s.phase = .check → s.bitcnt = 0 → s.idx = s.nchars / 2 → s.nchars / 2 ≠ 0 →
    s.memRead (s.nchars / 2 - 1) = .ok t →
    (s.crc = t → exec .checkVerify s = .next { s with idx := 0, bitidx := 7, phase := .render }) ∧
    (s.crc ≠ t → exec .checkVerify s = .next { s with status := 4, phase := .done })) ∧
  (∀ (s : State) (bytes : List Byte) (first : List Pins) (last : Pins) (rest : List Pins),
    s.block = .frameChecker → s.phase = .check → s.crc = 0x00 → s.bitcnt = 0 → s.idx = 0 →
    bytes ≠ [] → s.nchars / 2 = bytes.length → bytes.length ≤ s.cfg.maxBytes → s.holds bytes →
    first.length = 9 * bytes.length → (∀ p ∈ first, p.rst = false) → last.rst = false →
    s.edges = first ++ last :: rest →
    Host.Core.run Sys2Proof.core (9 * bytes.length) s =
      .next { s with crc := crc8 bytes, idx := bytes.length, edges := last :: rest } ∧
    (acceptFrame bytes = true → Host.Core.run Sys2Proof.core (9 * bytes.length + 1) s =
      .next { s with crc := crc8 bytes, idx := 0, bitidx := 7, phase := .render, edges := rest }) ∧
    (acceptFrame bytes = false → Host.Core.run Sys2Proof.core (9 * bytes.length + 1) s =
      .next { s with crc := crc8 bytes, idx := bytes.length, status := 4, phase := .done, edges := rest }))

/-! ## Rendering -/

/-- R89 RENDER.BIT: the character offered, and the transfer; over one byte the characters offered are `bits8` of it,
over the phase those of every byte in order, with nothing between them. -/
def Obligations.RenderBitEffect : Prop :=
  decode .state 0b1000 = .ok .renderBit ∧ decode .state 0b1010 = .ok .renderBit ∧
  (∀ (s : State) (b : Byte), s.phase = .render → s.idx < s.nchars / 2 → s.memRead s.idx = .ok b →
    s.outChar = some (0x30 ||| (BitVec.ofBool (b.getLsbD s.bitidx.toNat)).setWidth 8) ∧
    ∃ record, exec .renderBit s = .next
      { s with
        idx := if s.bitidx = 0 then s.idx + 1 else s.idx
        bitidx := if s.bitidx = 0 then 7 else s.bitidx - 1
        sent := record }) ∧
  (∀ (s : State) (bytes : List Byte) (taking rest : List Pins),
    s.block = .frameChecker → s.phase = .render → s.idx + bytes.length ≤ s.nchars / 2 → s.bitidx = 7 →
    (∀ i b, bytes[i]? = some b → s.memRead (s.idx + i) = .ok b) →
    taking.length = 8 * bytes.length → (∀ p ∈ taking, p.rst = false ∧ p.outReady = true) →
    s.edges = taking ++ rest →
    (∀ j, j < 8 * bytes.length → ∃ t, Host.Core.run Sys2Proof.core j s = .next t ∧ t.outValid = true ∧
      t.outChar = (bytes.flatMap bits8)[j]?) ∧
    ∃ record, Host.Core.run Sys2Proof.core (8 * bytes.length) s =
      .next { s with idx := s.idx + bytes.length, edges := rest, sent := record })

/-- R92 RENDER.LF: the newline, and success. -/
def Obligations.RenderLfEffect : Prop :=
  decode .state 0b1001 = .ok .renderLf ∧ decode .state 0b1011 = .ok .renderLf ∧
  ∀ s : State, s.phase = .render → s.idx = s.nchars / 2 →
    s.outChar = some 0x0A ∧
    ∃ record, exec .renderLf s = .next { s with status := 0, phase := .done, sent := record }

/-- R36, R89 in terms of the model's record of output symbols (log entry 3): eight transfers deliver `bits8` of the
byte and move on to the next one. -/
def Obligations.EightTransfersDeliverOneByte : Prop :=
  ∀ (s : State) (b : Byte) (eight rest : List Pins), s.block = .frameChecker → s.phase = .render →
    s.idx < s.len → s.bitidx = 7 → s.memRead s.idx = .ok b → eight.length = 8 →
    (∀ p ∈ eight, p.rst = false ∧ p.outReady = true) → s.edges = eight ++ rest →
    Host.Core.run Sys2Proof.core 8 s =
      .next { s with idx := s.idx + 1, bitidx := 7, sent := s.sent ++ bits8 b, edges := rest }

/-! ## The whole machine -/

/-- R94: in DONE no step is enabled, whatever is offered, and no register changes until reset. -/
def Obligations.DoneIsFinal : Prop :=
  ∀ s : State, s.block = .frameChecker → s.phase = .done →
    s.inReady = false ∧ s.outValid = false ∧ s.done = true ∧ s.inTransfer = false ∧ s.outTransfer = false ∧
    fetch s = none ∧ (s.pins.rst = false → step s = .next { s with edges := s.edges.tail })

/-- R81: the complete transition relation of `phase`, with the status each end of an invocation writes. -/
def Obligations.PhaseTransitions : Prop :=
  ∀ s t : State, s.block = .frameChecker → s.pins.rst = false → step s = .next t →
    (s.phase = .recv →
      (s.pins.inValid = false → t.phase = .recv) ∧
      (s.pins.inValid = true → s.pins.inEof = false → s.pins.inChar ≠ 0x0A → t.phase = .recv) ∧
      (s.pins.inValid = true → s.pins.inEof = true → s.nchars = 0 → t.phase = .done ∧ t.status = 1) ∧
      (s.pins.inValid = true →
        (s.pins.inEof = false ∧ s.pins.inChar = 0x0A) ∨ (s.pins.inEof = true ∧ s.nchars ≠ 0) →
        (2 * s.cfg.maxBytes < s.nchars → t.phase = .done ∧ t.status = 3) ∧
        (s.nchars ≤ 2 * s.cfg.maxBytes → s.nchars = 0 ∨ s.nchars % 2 = 1 ∨ s.bad = true →
          t.phase = .done ∧ t.status = 2) ∧
        (s.nchars ≤ 2 * s.cfg.maxBytes → s.nchars ≠ 0 → s.nchars % 2 = 0 → s.bad = false → t.phase = .check))) ∧
    (s.phase = .check →
      (¬(s.bitcnt = 0 ∧ s.idx = s.len) → t.phase = .check) ∧
      (s.bitcnt = 0 → s.idx = s.len → ∀ b, s.trailer = .ok b →
        (s.crc = b → t.phase = .render) ∧ (s.crc ≠ b → t.phase = .done ∧ t.status = 4))) ∧
    (s.phase = .render →
      (¬(s.pins.outReady = true ∧ s.idx = s.len) → t.phase = .render) ∧
      (s.pins.outReady = true → s.idx = s.len → t.phase = .done ∧ t.status = 0)) ∧
    (s.phase = .done → t.phase = .done)

/-- R22: `status` is written in the step that moves `phase` to DONE, with the code of the outcome, one of 0 to 4, and by
no other step but reset; until then it holds its reset value. -/
def Obligations.StatusWrittenOnce : Prop :=
  State.reset.status = 0 ∧
  ∀ s t : State, s.pins.rst = false → step s = .next t →
    (s.phase ≠ .done → t.phase = .done → t.status.toNat ≤ 4 ∧
      (s.phase = .recv → t.status = if s.pins.inEof = true ∧ s.nchars = 0 then ErrorKind.inputUnavailable.code
        else if 2 * s.cfg.maxBytes < s.nchars then ErrorKind.resourceLimitExceeded.code
        else ErrorKind.malformedFrame.code) ∧
      (s.phase = .check → t.status = ErrorKind.integrityMismatch.code) ∧
      (s.phase = .render → t.status = statusOk)) ∧
    (s.phase = .done ∨ t.phase ≠ .done → t.status = s.status) ∧
    ((s.phase ≠ .done → s.status = 0) → t.phase ≠ .done → t.status = 0)

/-- R18: `bad` is set by a transferred character that is no hex digit and not LF, and cleared by nothing but reset. -/
def Obligations.BadIsSticky : Prop :=
  State.reset.bad = false ∧
  ∀ s t : State, s.pins.rst = false → step s = .next t →
    (s.bad = true → t.bad = true) ∧
    (t.bad ≠ s.bad → s.block = .frameChecker ∧ s.inTransfer = true ∧ s.pins.inEof = false ∧
      isHexDigit s.pins.inChar = false ∧ s.pins.inChar ≠ 0x0A)

/-- R32, R33, R39: a step other than reset changes a cell only in phase RECV, at the transfer of a hex digit at an odd
position within the limit, at `nchars >> 1` below `MAX_BYTES`, with the byte `{hi, hexval(c)}`; at most one cell. -/
def Obligations.BufferStoresOnlyInRecv : Prop :=
  ∀ (s t : State) (a : Nat), s.pins.rst = false → step s = .next t → t.buf.lookup a ≠ s.buf.lookup a →
    s.block = .frameChecker ∧ s.phase = .recv ∧ s.inTransfer = true ∧ s.pins.inEof = false ∧
    s.nchars < s.textLimit ∧ s.nchars % 2 = 1 ∧ a = s.storeAddr ∧ a < s.cfg.maxBytes ∧
    ∃ v, hexval s.pins.inChar = some v ∧ t.buf.lookup a = some (assembleByte s.hi v)

/-- R14, R125, as log entry 13 (DEDUCED) reads them: inside the frame checker `crc` and `bitcnt` change only in CHECK
and at the edge that enters it. In a state outside CHECK with `bitcnt` not 0, which no run reaches, R54 read alone would
give a bit step; the model follows the decoder's pseudocode there. -/
def Obligations.EngineRegistersChangeOnlyInCheck : Prop :=
  ∀ s t : State, s.block = .frameChecker → s.pins.rst = false → step s = .next t →
    (t.crc ≠ s.crc ∨ t.bitcnt ≠ s.bitcnt) → s.phase = .check ∨ (s.phase = .recv ∧ t.phase = .check ∧ t.crc = 0 ∧ t.bitcnt = 0)

/-- The frame of the engine's operations ENG.CLR, ENG.ABSORB, ENG.BITSTEP, ENG.IDLE and of CHECK.BITSTEP: nothing but
`crc` and `bitcnt` changes, and every cell reads as before. -/
def Obligations.EngineOperationsFrame : Prop :=
  ∀ (i : Instr) (s t : State),
    (i = .engClr ∨ (∃ b, i = .engAbsorb b) ∨ i = .engBitstep ∨ i = .engIdle ∨ i = .checkBitstep) →
    exec i s = .next t →
    (∀ a, t.memRead a = s.memRead a) ∧ t.phase = s.phase ∧ t.nchars = s.nchars ∧ t.hi = s.hi ∧ t.bad = s.bad ∧
    t.idx = s.idx ∧ t.bitidx = s.bitidx ∧ t.status = s.status ∧ t.cfg = s.cfg ∧ t.block = s.block ∧
    t.edges = s.edges ∧ t.taken = s.taken ∧ t.sent = s.sent

/-- The frame of the receiving operations that store nothing, RECV.LF, RECV.EOF and RECV.OTHER: every cell reads as
before; `hi`, `bitidx` and the output record are unchanged; a line end leaves the counter and `bad` and, unless it
enters CHECK, the engine and `idx`; RECV.OTHER leaves all but `bad` and the counter. -/
def Obligations.ReceivingFrame : Prop :=
  ∀ (i : Instr) (s t : State), (i = .recvLf ∨ i = .recvEof ∨ ∃ c, i = .recvOther c) → exec i s = .next t →
    (∀ a, t.memRead a = s.memRead a) ∧ t.hi = s.hi ∧ t.bitidx = s.bitidx ∧ t.cfg = s.cfg ∧ t.block = s.block ∧
    t.edges = s.edges ∧ t.sent = s.sent ∧
    (i = .recvLf ∨ i = .recvEof → t.nchars = s.nchars ∧ t.bad = s.bad) ∧
    (¬(s.phase = .recv ∧ t.phase = .check) → t.crc = s.crc ∧ t.bitcnt = s.bitcnt ∧ t.idx = s.idx) ∧
    (t.phase ≠ .done → t.status = s.status) ∧
    ((∃ c, i = .recvOther c) → t.phase = s.phase ∧ t.status = s.status)

/-- The frame of CHECK.ABSORB, CHECK.VERIFY, RENDER.BIT and RENDER.LF: they load and never store; the reception
registers are unchanged; CHECK.ABSORB alone changes the engine, CHECK.VERIFY and the RENDER steps alone `bitidx`,
`phase` and `status`, the RENDER steps alone the output record. -/
def Obligations.CheckAndRenderFrame : Prop :=
  ∀ (i : Instr) (s t : State), (i = .checkAbsorb ∨ i = .checkVerify ∨ i = .renderBit ∨ i = .renderLf) →
    exec i s = .next t →
    (∀ a, t.memRead a = s.memRead a) ∧ t.nchars = s.nchars ∧ t.hi = s.hi ∧ t.bad = s.bad ∧ t.cfg = s.cfg ∧
    t.block = s.block ∧ t.edges = s.edges ∧ t.taken = s.taken ∧
    (i ≠ .checkAbsorb → t.crc = s.crc ∧ t.bitcnt = s.bitcnt) ∧
    (i = .checkAbsorb → t.phase = s.phase ∧ t.bitidx = s.bitidx ∧ t.status = s.status ∧ t.sent = s.sent) ∧
    (i = .checkVerify → t.sent = s.sent ∧ (t.phase ≠ .done → t.status = s.status) ∧
      (t.phase ≠ .render → t.idx = s.idx ∧ t.bitidx = s.bitidx)) ∧
    (i = .renderBit → t.phase = s.phase ∧ t.status = s.status) ∧
    (i = .renderLf → t.idx = s.idx ∧ t.bitidx = s.bitidx)

/-- The model's reading of an operation whose enabling condition does not hold (log entries 8 and 9, after R44, R69 and
R94): nothing changes. -/
def Obligations.DisabledOperationsChangeNothing : Prop :=
  ∀ s : State,
    (s.phase ≠ .recv → (∀ r ∈ hexRows, exec r.2.2 s = .next s) ∧ exec .recvLf s = .next s ∧
      exec .recvEof s = .next s ∧ ∀ c, exec (.recvOther c) s = .next s) ∧
    (¬(s.phase = .check ∧ s.bitcnt = 0 ∧ s.idx < s.len) → exec .checkAbsorb s = .next s) ∧
    (¬(s.phase = .check ∧ s.bitcnt ≠ 0) → exec .checkBitstep s = .next s) ∧
    (s.bitcnt = 0 → exec .engBitstep s = .next s) ∧
    (¬(s.phase = .check ∧ s.bitcnt = 0 ∧ s.idx = s.len) → exec .checkVerify s = .next s) ∧
    (¬(s.phase = .render ∧ s.idx < s.len) → exec .renderBit s = .next s) ∧
    (¬(s.phase = .render ∧ s.idx = s.len) → exec .renderLf s = .next s)

/-- The model's records (log entry 3), in terms of R44 and R46: at every edge of the frame checker the record of input
symbols grows by the symbol transferred, that of output symbols by the character offered at an output transfer, and by
nothing else; a reset edge empties both. -/
def Obligations.TransfersAreRecorded : Prop :=
  ∀ s t : State, s.Inv → s.block = .frameChecker → step s = .next t →
    (s.pins.rst = true → t.taken = [] ∧ t.sent = []) ∧
    (s.pins.rst = false →
      (s.inTransfer = false → t.taken = s.taken) ∧
      (s.inTransfer = true →
        t.taken = s.taken ++ [if s.pins.inEof then .eof else .char s.pins.inChar]) ∧
      (s.outTransfer = false → t.sent = s.sent) ∧
      (s.outTransfer = true → ∃ c, s.outChar = some c ∧ t.sent = s.sent ++ [c]))

/-- R118, R121, R124: while no symbol is offered in RECV, or none is taken in RENDER, the block waits for any number of
edges with every register and `out_char` unchanged. -/
def Obligations.PausingHostsChangeNothing : Prop :=
  ∀ (s : State) (pause rest : List Pins), s.block = .frameChecker → s.edges = pause ++ rest →
    (∀ p ∈ pause, p.rst = false) →
    (s.phase = .recv ∧ (∀ p ∈ pause, p.inValid = false)) ∨ (s.phase = .render ∧ (∀ p ∈ pause, p.outReady = false)) →
    Host.Core.run Sys2Proof.core pause.length s = .next { s with edges := rest } ∧
    ({ s with edges := rest } : State).outChar = s.outChar ∧ ({ s with edges := rest } : State).outValid = s.outValid

/-- R45, R123 (and U8, U9): what a pin shows when it is not sampled makes no difference. -/
def Obligations.UnsampledPinsIgnored : Prop :=
  ∀ (s : State) (p : Pins) (later : List Pins) (c : Byte) (e v : Bool), s.block = .frameChecker →
    (p.inEof = true →
      step { s with edges := { p with inChar := c } :: later } = step { s with edges := p :: later }) ∧
    (p.inValid = false →
      step { s with edges := { p with inChar := c, inEof := e } :: later } = step { s with edges := p :: later }) ∧
    (s.phase ≠ .recv →
      step { s with edges := { p with inValid := v, inChar := c, inEof := e } :: later } =
        step { s with edges := p :: later }) ∧
    (s.phase ≠ .render → step { s with edges := { p with outReady := v } :: later } = step { s with edges := p :: later }) ∧
    step { s with edges := { p with engClear := e, engValid := v, engByte := c } :: later } =
      step { s with edges := p :: later }

/-- The model's faults (log entries 5, 6; R32, R40): an enabled load of a cell that holds no value, of an address that
does not exist, or of the trailer of an empty frame, stops by name. No state of a run meets them (statement
InvariantNeverStops). -/
def Obligations.UnreadableCellsStopLoads : Prop :=
  ∀ s : State,
    (s.phase = .check → s.bitcnt = 0 → s.idx < s.len → s.idx < s.cfg.maxBytes → s.buf.lookup s.idx = none →
      exec .checkAbsorb s = .fault (.unwrittenCell s.idx)) ∧
    (s.phase = .check → s.bitcnt = 0 → s.idx < s.len → s.cfg.maxBytes ≤ s.idx →
      exec .checkAbsorb s = .fault (.noSuchCell s.idx)) ∧
    (s.phase = .check → s.bitcnt = 0 → s.idx = s.len → s.len = 0 → exec .checkVerify s = .fault .noTrailer) ∧
    (s.phase = .check → s.bitcnt = 0 → s.idx = s.len → s.len ≠ 0 → s.len - 1 < s.cfg.maxBytes →
      s.buf.lookup (s.len - 1) = none → exec .checkVerify s = .fault (.unwrittenCell (s.len - 1))) ∧
    (s.phase = .check → s.bitcnt = 0 → s.idx = s.len → s.cfg.maxBytes < s.len →
      exec .checkVerify s = .fault (.noSuchCell (s.len - 1))) ∧
    (s.phase = .render → s.idx < s.len → s.idx < s.cfg.maxBytes → s.buf.lookup s.idx = none →
      exec .renderBit s = .fault (.unwrittenCell s.idx)) ∧
    (s.phase = .render → s.idx < s.len → s.cfg.maxBytes ≤ s.idx →
      exec .renderBit s = .fault (.noSuchCell s.idx))

/-- R33, R41: a store is done below `MAX_BYTES` and nowhere else; a load after it returns the byte stored, and every
other cell reads as before; the canonical form is kept. -/
def Obligations.LoadReturnsLatestStore : Prop :=
  ∀ (s : State) (a : Nat) (v : Byte),
    (a < s.cfg.maxBytes → ∃ t, s.memWrite a v = .ok t ∧ t.memRead a = .ok v ∧
      (∀ a', a' ≠ a → t.memRead a' = s.memRead a') ∧ (s.buf.wf = true → t.buf.wf = true)) ∧
    (s.cfg.maxBytes ≤ a → s.memWrite a v = .error (.noSuchCell a) ∧ s.memRead a = .error (.noSuchCell a))

/-! ## Invariants and the agreement of the two levels -/

/-- The invariant, the fail-closed policy and the agreement hold at the start of every invocation, State.reset among
them. -/
def Obligations.InvariantsHoldAtReset : Prop :=
  (∀ (cfg : Config) (block : Block) (edges : List Pins),
    (State.start cfg block edges).Inv ∧ (State.start cfg block edges).FailClosed ∧
    (State.start cfg block edges).Agrees) ∧
  State.reset.Inv ∧ State.reset.FailClosed ∧ State.reset.Agrees

/-- R13 to R24, R40: every step keeps the invariant of the state, from every state that meets it, whatever the hosts
do, in either block. -/
def Obligations.InvariantKeptByStep : Prop :=
  ∀ s t : State, s.Inv → step s = .next t → t.Inv

/-- R40: from every state that meets the invariant a step has a next state; no load meets an unwritten cell. -/
def Obligations.InvariantNeverStops : Prop :=
  ∀ s : State, s.Inv → ∃ t, step s = .next t

/-- R9: the counters fit the widths the spec derives for their registers, in every build. -/
def Obligations.RegistersFitTheirWidths : Prop :=
  (∀ s : State, s.Inv → s.nchars < 2 ^ s.cfg.ncharsWidth ∧ s.idx < 2 ^ s.cfg.idxWidth ∧
    ∀ cell ∈ s.buf, cell.1 < 2 ^ s.cfg.addrWidth) ∧
  Config.default.ncharsWidth = 14 ∧ Config.default.idxWidth = 13 ∧ Config.default.addrWidth = 13

/-- R105: no output symbol is transferred before the frame is accepted, nor in an invocation that ends in an error;
every step keeps it. -/
def Obligations.FailClosedKeptByStep : Prop :=
  ∀ s t : State, s.FailClosed → step s = .next t → t.FailClosed

/-- R7, R96: every step of the frame checker keeps the agreement with the functional level: in DONE, `status` and the
symbols sent are the outcome of `decode_frame` on the line transferred. -/
def Obligations.AgreementKeptByStep : Prop :=
  ∀ s t : State, s.block = .frameChecker → s.Agrees → step s = .next t → t.Agrees

/-- R96, R127, R129: for every build, every line and hosts that are always ready, the invocation ends in DONE with the
status and the output of the functional level. The list of edges, the record of output symbols and the count of edges
are the model's (log entries 2, 3 and 15). -/
def Obligations.FrameRunDeliversOutcome : Prop :=
  ∀ (cfg : Config) (text : List Byte) (ended : Sym) (n : Nat), charLF ∉ text → ended.endsLine →
    17 * (text.length / 2) + 2 ≤ n →
    ∃ t, Host.Core.run Sys2Proof.core (text.length + 1 + n)
        (State.start cfg .frameChecker (lineEdges text ended n)) = .next t ∧
      t.phase = .done ∧ (t.status, t.sent) = lineOutcome cfg.maxBytes text ended
end

