-- ==== Sys2Proof/Laws/Crc.lean ====
section
/-! SUPPORT. The checksum's own lemmas (spec/40_crc_engine.md R59, R61). -/

namespace Sys2Proof

@[simp] theorem bitsteps_zero (c : Byte) : bitsteps 0 c = c := rfl

theorem bitsteps_succ (n : Nat) (c : Byte) : bitsteps (n + 1) c = bitsteps n (bitstep c) := rfl

@[simp] theorem crc8_nil : crc8 [] = 0 := rfl

/-- One more byte is one more pass of the loop. -/
theorem crc8_append_singleton (bytes : List Byte) (b : Byte) : crc8 (bytes ++ [b]) = crcByte (crc8 bytes) b := by
  simp [crc8]

/-- `bitstep` is linear over GF(2) (R70 (b)). -/
theorem bitstep_xor (a b : Byte) : bitstep (a ^^^ b) = bitstep a ^^^ bitstep b := by
  unfold bitstep crcPoly
  ext i hi
  cases ha : a.getLsbD 7 <;> cases hb : b.getLsbD 7 <;> simp [*] <;> grind

theorem bitsteps_xor (n : Nat) (a b : Byte) : bitsteps n (a ^^^ b) = bitsteps n a ^^^ bitsteps n b := by
  induction n generalizing a b with
  | zero => rfl
  | succ n ih => simp only [bitsteps_succ, bitstep_xor, ih]

end Sys2Proof
end

