-- ==== Sys2Proof/Laws/Decode.lean ====
section
/-! SUPPORT. What the decoder answers on the words the machine forms (spec/30_encoding.md R48, R54, R58). -/

namespace Sys2Proof

/-- R48, R49: a character is a digit of one row, or LF, or a character of RECV.OTHER. -/
theorem decodeChar_cases : ∀ c : Byte,
   (∃ r ∈ hexRows, r.1 = c ∧ decodeChar c = r.2.2 ∧ hexval c = some r.2.1 ∧ c ≠ charLF) ∨
   (c = charLF ∧ decodeChar c = .recvLf ∧ hexval c = none) ∨ (hexval c = none ∧ c ≠ charLF ∧ decodeChar c = .recvOther c) := by decide +kernel

/-- The fields of a symbol word read back. -/
theorem symEof_of : ∀ e : Bool, ∀ c : Byte, symEof (symWordOf e c) = e := by decide +kernel
theorem symChar_of : ∀ e : Bool, ∀ c : Byte, symChar (symWordOf e c) = c := by decide +kernel

/-- R48 on the word the pins form. -/
theorem decodeSym_of (e : Bool) (c : Byte) : decodeSym (symWordOf e c) = if e then .recvEof else decodeChar c := by
  unfold decodeSym; rw [symEof_of, symChar_of]

/-- R58 on the word the state forms. -/
theorem decodeState_of : ∀ (p : BitVec 2) (b l : Bool), decodeState (stateWordOf p b l) =
   if p = 0 then .error .noRowInRecv else if p = 1 then (if b then .ok .checkBitstep else if l then .ok .checkVerify else .ok .checkAbsorb)
   else if p = 2 then (if l then .ok .renderLf else .ok .renderBit) else .error .noRowInDone := by decide +kernel

/-- The fields of an engine selection word read back. -/
theorem engWord_of : ∀ (b c v : Bool) (y : Byte), engWordBusy (engWordOf b c v y) = b ∧ engWordClear (engWordOf b c v y) = c ∧
   engWordValid (engWordOf b c v y) = v ∧ engWordByte (engWordOf b c v y) = y := by decide +kernel

/-- R54 on the word the engine forms. -/
theorem decodeEng_of (b c v : Bool) (y : Byte) : decodeEng (engWordOf b c v y) =
   if c then .engClr else if b then .engBitstep else if v then .engAbsorb y else .engIdle := by
  obtain ⟨h1,h2,h3,h4⟩ := engWord_of b c v y
  unfold decodeEng; rw [h1,h2,h3,h4]

end Sys2Proof
end

