-- ==== Sys2Proof/Laws/Memory.lean ====
section
/-! SUPPORT. The laws of the frame buffer (spec/20_memory.md R33, R41): a read after a write, the frame of a write,
and the canonical form kept. -/

namespace Sys2Proof.Machine

open Sys2Proof

@[simp] theorem Memory.lookup_nil (a : Nat) : Memory.lookup [] a = none := rfl

/-- A load after a store to the same cell gives the byte stored. -/
@[simp] theorem Memory.lookup_insert_self (m : Memory) (a : Nat) (v : Byte) : (m.insert a v).lookup a = some v := by
  induction m with
  | nil => simp [Memory.insert, Memory.lookup]
  | cons cell m ih =>
    obtain ⟨k, b⟩ := cell
    simp only [Memory.insert]
    split
    · simp [Memory.lookup]
    · split
      · simp [Memory.lookup]
      · rename_i h
        simp [Memory.lookup, Ne.symm h, ih]

/-- A store leaves every other cell alone. -/
theorem Memory.lookup_insert_ne (m : Memory) {a a' : Nat} (v : Byte) (h : a' ≠ a) :
    (m.insert a v).lookup a' = m.lookup a' := by
  induction m with
  | nil => simp [Memory.insert, Memory.lookup, h.symm]
  | cons cell m ih =>
    obtain ⟨k, b⟩ := cell
    simp only [Memory.insert]
    split
    · simp [Memory.lookup, h.symm]
    · split
      · rename_i hk
        subst hk
        simp [Memory.lookup, h.symm]
      · simp [Memory.lookup, ih]

theorem Memory.lookup_insert (m : Memory) (a a' : Nat) (v : Byte) :
    (m.insert a v).lookup a' = if a' = a then some v else m.lookup a' := by
  split
  · rename_i h
    subst h
    simp
  · rename_i h
    exact m.lookup_insert_ne v h

/-- A store keeps every address of the list above `k`, rising. -/
theorem Memory.risingFrom_insert (m : Memory) {k a : Nat} (v : Byte) (hm : m.risingFrom k = true) (ha : k < a) :
    (m.insert a v).risingFrom k = true := by
  induction m generalizing k with
  | nil => simp [Memory.insert, Memory.risingFrom, ha]
  | cons cell m ih =>
    obtain ⟨j, b⟩ := cell
    simp only [Memory.risingFrom, Bool.and_eq_true, decide_eq_true_eq] at hm
    simp only [Memory.insert]
    split
    · simp_all [Memory.risingFrom]
    · split
      · simp_all [Memory.risingFrom]
      · have : j < a := by omega
        simp [Memory.risingFrom, hm.1, ih hm.2 this]

/-- The canonical form is kept by a store. -/
theorem Memory.wf_insert (m : Memory) (a : Nat) (v : Byte) (hm : m.wf = true) : (m.insert a v).wf = true := by
  cases m with
  | nil => simp [Memory.insert, Memory.wf, Memory.risingFrom]
  | cons cell m =>
    obtain ⟨k, b⟩ := cell
    simp only [Memory.wf] at hm
    simp only [Memory.insert]
    split
    · simp_all [Memory.wf, Memory.risingFrom]
    · split
      · simp_all [Memory.wf]
      · have : k < a := by omega
        simpa [Memory.wf] using Memory.risingFrom_insert m v hm this

/-- The cells of a list after a store: the cell stored to, and cells of the list. -/
theorem Memory.mem_insert (m : Memory) {a : Nat} {v : Byte} {cell : Host.Cell} (h : cell ∈ m.insert a v) :
    cell = (a, v) ∨ cell ∈ m := by
  induction m with
  | nil => simpa [Memory.insert] using h
  | cons c m ih =>
    obtain ⟨k, b⟩ := c
    simp only [Memory.insert] at h
    split at h
    · simpa using h
    · split at h
      · simp only [List.mem_cons] at h ⊢
        tauto
      · simp only [List.mem_cons] at h ⊢
        rcases h with h | h
        · tauto
        · rcases ih h with h | h <;> tauto

/-- The reset buffer has the canonical form. -/
theorem Memory.wf_nil : Memory.wf [] = true := rfl

/-- What a load answers: the byte of an existing, written cell. -/
theorem State.memRead_ok {s : State} {a : Nat} {b : Byte} :
    s.memRead a = .ok b ↔ a < s.cfg.maxBytes ∧ s.buf.lookup a = some b := by
  unfold State.memRead
  split
  · cases h : s.buf.lookup a <;> simp_all
  · simp_all

/-- What a store does: below `MAX_BYTES`, the cell. -/
theorem State.memWrite_ok {s t : State} {a : Nat} {v : Byte} :
    s.memWrite a v = .ok t ↔ a < s.cfg.maxBytes ∧ t = s.setCell a v := by
  unfold State.memWrite
  split <;> simp_all [eq_comm]

end Sys2Proof.Machine
end

