-- ==== Sys2Proof/Laws/State.lean ====
section
/-! SUPPORT. One lemma per field per update of the state, each true by rfl, so that no proof unfolds a record
update. -/

namespace Sys2Proof.Machine

open Sys2Proof

@[simp] theorem State.engClr_crc (s : State) : (s.engClr).crc = crcInit := rfl
@[simp] theorem State.engClr_bitcnt (s : State) : (s.engClr).bitcnt = 0 := rfl
@[simp] theorem State.engClr_phase (s : State) : (s.engClr).phase = s.phase := rfl
@[simp] theorem State.engClr_nchars (s : State) : (s.engClr).nchars = s.nchars := rfl
@[simp] theorem State.engClr_hi (s : State) : (s.engClr).hi = s.hi := rfl
@[simp] theorem State.engClr_bad (s : State) : (s.engClr).bad = s.bad := rfl
@[simp] theorem State.engClr_idx (s : State) : (s.engClr).idx = s.idx := rfl
@[simp] theorem State.engClr_bitidx (s : State) : (s.engClr).bitidx = s.bitidx := rfl
@[simp] theorem State.engClr_status (s : State) : (s.engClr).status = s.status := rfl
@[simp] theorem State.engClr_buf (s : State) : (s.engClr).buf = s.buf := rfl
@[simp] theorem State.engClr_cfg (s : State) : (s.engClr).cfg = s.cfg := rfl
@[simp] theorem State.engClr_block (s : State) : (s.engClr).block = s.block := rfl
@[simp] theorem State.engClr_edges (s : State) : (s.engClr).edges = s.edges := rfl
@[simp] theorem State.engClr_taken (s : State) : (s.engClr).taken = s.taken := rfl
@[simp] theorem State.engClr_sent (s : State) : (s.engClr).sent = s.sent := rfl

@[simp] theorem State.engAbsorb_crc (s : State) (b : Byte) : (s.engAbsorb b).crc = s.crc ^^^ b := rfl
@[simp] theorem State.engAbsorb_bitcnt (s : State) (b : Byte) : (s.engAbsorb b).bitcnt = 8 := rfl
@[simp] theorem State.engAbsorb_phase (s : State) (b : Byte) : (s.engAbsorb b).phase = s.phase := rfl
@[simp] theorem State.engAbsorb_nchars (s : State) (b : Byte) : (s.engAbsorb b).nchars = s.nchars := rfl
@[simp] theorem State.engAbsorb_hi (s : State) (b : Byte) : (s.engAbsorb b).hi = s.hi := rfl
@[simp] theorem State.engAbsorb_bad (s : State) (b : Byte) : (s.engAbsorb b).bad = s.bad := rfl
@[simp] theorem State.engAbsorb_idx (s : State) (b : Byte) : (s.engAbsorb b).idx = s.idx := rfl
@[simp] theorem State.engAbsorb_bitidx (s : State) (b : Byte) : (s.engAbsorb b).bitidx = s.bitidx := rfl
@[simp] theorem State.engAbsorb_status (s : State) (b : Byte) : (s.engAbsorb b).status = s.status := rfl
@[simp] theorem State.engAbsorb_buf (s : State) (b : Byte) : (s.engAbsorb b).buf = s.buf := rfl
@[simp] theorem State.engAbsorb_cfg (s : State) (b : Byte) : (s.engAbsorb b).cfg = s.cfg := rfl
@[simp] theorem State.engAbsorb_block (s : State) (b : Byte) : (s.engAbsorb b).block = s.block := rfl
@[simp] theorem State.engAbsorb_edges (s : State) (b : Byte) : (s.engAbsorb b).edges = s.edges := rfl
@[simp] theorem State.engAbsorb_taken (s : State) (b : Byte) : (s.engAbsorb b).taken = s.taken := rfl
@[simp] theorem State.engAbsorb_sent (s : State) (b : Byte) : (s.engAbsorb b).sent = s.sent := rfl

@[simp] theorem State.engBitstep_crc (s : State) : (s.engBitstep).crc = bitstep s.crc := rfl
@[simp] theorem State.engBitstep_bitcnt (s : State) : (s.engBitstep).bitcnt = s.bitcnt - 1 := rfl
@[simp] theorem State.engBitstep_phase (s : State) : (s.engBitstep).phase = s.phase := rfl
@[simp] theorem State.engBitstep_nchars (s : State) : (s.engBitstep).nchars = s.nchars := rfl
@[simp] theorem State.engBitstep_hi (s : State) : (s.engBitstep).hi = s.hi := rfl
@[simp] theorem State.engBitstep_bad (s : State) : (s.engBitstep).bad = s.bad := rfl
@[simp] theorem State.engBitstep_idx (s : State) : (s.engBitstep).idx = s.idx := rfl
@[simp] theorem State.engBitstep_bitidx (s : State) : (s.engBitstep).bitidx = s.bitidx := rfl
@[simp] theorem State.engBitstep_status (s : State) : (s.engBitstep).status = s.status := rfl
@[simp] theorem State.engBitstep_buf (s : State) : (s.engBitstep).buf = s.buf := rfl
@[simp] theorem State.engBitstep_cfg (s : State) : (s.engBitstep).cfg = s.cfg := rfl
@[simp] theorem State.engBitstep_block (s : State) : (s.engBitstep).block = s.block := rfl
@[simp] theorem State.engBitstep_edges (s : State) : (s.engBitstep).edges = s.edges := rfl
@[simp] theorem State.engBitstep_taken (s : State) : (s.engBitstep).taken = s.taken := rfl
@[simp] theorem State.engBitstep_sent (s : State) : (s.engBitstep).sent = s.sent := rfl

@[simp] theorem State.raise_crc (s : State) (e : ErrorKind) : (s.raise e).crc = s.crc := rfl
@[simp] theorem State.raise_bitcnt (s : State) (e : ErrorKind) : (s.raise e).bitcnt = s.bitcnt := rfl
@[simp] theorem State.raise_phase (s : State) (e : ErrorKind) : (s.raise e).phase = .done := rfl
@[simp] theorem State.raise_nchars (s : State) (e : ErrorKind) : (s.raise e).nchars = s.nchars := rfl
@[simp] theorem State.raise_hi (s : State) (e : ErrorKind) : (s.raise e).hi = s.hi := rfl
@[simp] theorem State.raise_bad (s : State) (e : ErrorKind) : (s.raise e).bad = s.bad := rfl
@[simp] theorem State.raise_idx (s : State) (e : ErrorKind) : (s.raise e).idx = s.idx := rfl
@[simp] theorem State.raise_bitidx (s : State) (e : ErrorKind) : (s.raise e).bitidx = s.bitidx := rfl
@[simp] theorem State.raise_status (s : State) (e : ErrorKind) : (s.raise e).status = e.code := rfl
@[simp] theorem State.raise_buf (s : State) (e : ErrorKind) : (s.raise e).buf = s.buf := rfl
@[simp] theorem State.raise_cfg (s : State) (e : ErrorKind) : (s.raise e).cfg = s.cfg := rfl
@[simp] theorem State.raise_block (s : State) (e : ErrorKind) : (s.raise e).block = s.block := rfl
@[simp] theorem State.raise_edges (s : State) (e : ErrorKind) : (s.raise e).edges = s.edges := rfl
@[simp] theorem State.raise_taken (s : State) (e : ErrorKind) : (s.raise e).taken = s.taken := rfl
@[simp] theorem State.raise_sent (s : State) (e : ErrorKind) : (s.raise e).sent = s.sent := rfl

@[simp] theorem State.finishOk_crc (s : State) : (s.finishOk).crc = s.crc := rfl
@[simp] theorem State.finishOk_bitcnt (s : State) : (s.finishOk).bitcnt = s.bitcnt := rfl
@[simp] theorem State.finishOk_phase (s : State) : (s.finishOk).phase = .done := rfl
@[simp] theorem State.finishOk_nchars (s : State) : (s.finishOk).nchars = s.nchars := rfl
@[simp] theorem State.finishOk_hi (s : State) : (s.finishOk).hi = s.hi := rfl
@[simp] theorem State.finishOk_bad (s : State) : (s.finishOk).bad = s.bad := rfl
@[simp] theorem State.finishOk_idx (s : State) : (s.finishOk).idx = s.idx := rfl
@[simp] theorem State.finishOk_bitidx (s : State) : (s.finishOk).bitidx = s.bitidx := rfl
@[simp] theorem State.finishOk_status (s : State) : (s.finishOk).status = statusOk := rfl
@[simp] theorem State.finishOk_buf (s : State) : (s.finishOk).buf = s.buf := rfl
@[simp] theorem State.finishOk_cfg (s : State) : (s.finishOk).cfg = s.cfg := rfl
@[simp] theorem State.finishOk_block (s : State) : (s.finishOk).block = s.block := rfl
@[simp] theorem State.finishOk_edges (s : State) : (s.finishOk).edges = s.edges := rfl
@[simp] theorem State.finishOk_taken (s : State) : (s.finishOk).taken = s.taken := rfl
@[simp] theorem State.finishOk_sent (s : State) : (s.finishOk).sent = s.sent := rfl

@[simp] theorem State.take_crc (s : State) (x : Sym) : (s.take x).crc = s.crc := rfl
@[simp] theorem State.take_bitcnt (s : State) (x : Sym) : (s.take x).bitcnt = s.bitcnt := rfl
@[simp] theorem State.take_phase (s : State) (x : Sym) : (s.take x).phase = s.phase := rfl
@[simp] theorem State.take_nchars (s : State) (x : Sym) : (s.take x).nchars = s.nchars := rfl
@[simp] theorem State.take_hi (s : State) (x : Sym) : (s.take x).hi = s.hi := rfl
@[simp] theorem State.take_bad (s : State) (x : Sym) : (s.take x).bad = s.bad := rfl
@[simp] theorem State.take_idx (s : State) (x : Sym) : (s.take x).idx = s.idx := rfl
@[simp] theorem State.take_bitidx (s : State) (x : Sym) : (s.take x).bitidx = s.bitidx := rfl
@[simp] theorem State.take_status (s : State) (x : Sym) : (s.take x).status = s.status := rfl
@[simp] theorem State.take_buf (s : State) (x : Sym) : (s.take x).buf = s.buf := rfl
@[simp] theorem State.take_cfg (s : State) (x : Sym) : (s.take x).cfg = s.cfg := rfl
@[simp] theorem State.take_block (s : State) (x : Sym) : (s.take x).block = s.block := rfl
@[simp] theorem State.take_edges (s : State) (x : Sym) : (s.take x).edges = s.edges := rfl
@[simp] theorem State.take_taken (s : State) (x : Sym) : (s.take x).taken = s.taken ++ [x] := rfl
@[simp] theorem State.take_sent (s : State) (x : Sym) : (s.take x).sent = s.sent := rfl

@[simp] theorem State.send_crc (s : State) (c : Byte) : (s.send c).crc = s.crc := rfl
@[simp] theorem State.send_bitcnt (s : State) (c : Byte) : (s.send c).bitcnt = s.bitcnt := rfl
@[simp] theorem State.send_phase (s : State) (c : Byte) : (s.send c).phase = s.phase := rfl
@[simp] theorem State.send_nchars (s : State) (c : Byte) : (s.send c).nchars = s.nchars := rfl
@[simp] theorem State.send_hi (s : State) (c : Byte) : (s.send c).hi = s.hi := rfl
@[simp] theorem State.send_bad (s : State) (c : Byte) : (s.send c).bad = s.bad := rfl
@[simp] theorem State.send_idx (s : State) (c : Byte) : (s.send c).idx = s.idx := rfl
@[simp] theorem State.send_bitidx (s : State) (c : Byte) : (s.send c).bitidx = s.bitidx := rfl
@[simp] theorem State.send_status (s : State) (c : Byte) : (s.send c).status = s.status := rfl
@[simp] theorem State.send_buf (s : State) (c : Byte) : (s.send c).buf = s.buf := rfl
@[simp] theorem State.send_cfg (s : State) (c : Byte) : (s.send c).cfg = s.cfg := rfl
@[simp] theorem State.send_block (s : State) (c : Byte) : (s.send c).block = s.block := rfl
@[simp] theorem State.send_edges (s : State) (c : Byte) : (s.send c).edges = s.edges := rfl
@[simp] theorem State.send_taken (s : State) (c : Byte) : (s.send c).taken = s.taken := rfl
@[simp] theorem State.send_sent (s : State) (c : Byte) : (s.send c).sent = s.sent ++ [c] := rfl

@[simp] theorem State.countChar_crc (s : State) : (s.countChar).crc = s.crc := rfl
@[simp] theorem State.countChar_bitcnt (s : State) : (s.countChar).bitcnt = s.bitcnt := rfl
@[simp] theorem State.countChar_phase (s : State) : (s.countChar).phase = s.phase := rfl
@[simp] theorem State.countChar_nchars (s : State) : (s.countChar).nchars = min (s.nchars + 1) (s.textLimit + 1) := rfl
@[simp] theorem State.countChar_hi (s : State) : (s.countChar).hi = s.hi := rfl
@[simp] theorem State.countChar_bad (s : State) : (s.countChar).bad = s.bad := rfl
@[simp] theorem State.countChar_idx (s : State) : (s.countChar).idx = s.idx := rfl
@[simp] theorem State.countChar_bitidx (s : State) : (s.countChar).bitidx = s.bitidx := rfl
@[simp] theorem State.countChar_status (s : State) : (s.countChar).status = s.status := rfl
@[simp] theorem State.countChar_buf (s : State) : (s.countChar).buf = s.buf := rfl
@[simp] theorem State.countChar_cfg (s : State) : (s.countChar).cfg = s.cfg := rfl
@[simp] theorem State.countChar_block (s : State) : (s.countChar).block = s.block := rfl
@[simp] theorem State.countChar_edges (s : State) : (s.countChar).edges = s.edges := rfl
@[simp] theorem State.countChar_taken (s : State) : (s.countChar).taken = s.taken := rfl
@[simp] theorem State.countChar_sent (s : State) : (s.countChar).sent = s.sent := rfl

@[simp] theorem State.enterCheck_crc (s : State) : (s.enterCheck).crc = crcInit := rfl
@[simp] theorem State.enterCheck_bitcnt (s : State) : (s.enterCheck).bitcnt = 0 := rfl
@[simp] theorem State.enterCheck_phase (s : State) : (s.enterCheck).phase = .check := rfl
@[simp] theorem State.enterCheck_nchars (s : State) : (s.enterCheck).nchars = s.nchars := rfl
@[simp] theorem State.enterCheck_hi (s : State) : (s.enterCheck).hi = s.hi := rfl
@[simp] theorem State.enterCheck_bad (s : State) : (s.enterCheck).bad = s.bad := rfl
@[simp] theorem State.enterCheck_idx (s : State) : (s.enterCheck).idx = 0 := rfl
@[simp] theorem State.enterCheck_bitidx (s : State) : (s.enterCheck).bitidx = s.bitidx := rfl
@[simp] theorem State.enterCheck_status (s : State) : (s.enterCheck).status = s.status := rfl
@[simp] theorem State.enterCheck_buf (s : State) : (s.enterCheck).buf = s.buf := rfl
@[simp] theorem State.enterCheck_cfg (s : State) : (s.enterCheck).cfg = s.cfg := rfl
@[simp] theorem State.enterCheck_block (s : State) : (s.enterCheck).block = s.block := rfl
@[simp] theorem State.enterCheck_edges (s : State) : (s.enterCheck).edges = s.edges := rfl
@[simp] theorem State.enterCheck_taken (s : State) : (s.enterCheck).taken = s.taken := rfl
@[simp] theorem State.enterCheck_sent (s : State) : (s.enterCheck).sent = s.sent := rfl

@[simp] theorem State.accept_crc (s : State) : (s.accept).crc = s.crc := rfl
@[simp] theorem State.accept_bitcnt (s : State) : (s.accept).bitcnt = s.bitcnt := rfl
@[simp] theorem State.accept_phase (s : State) : (s.accept).phase = .render := rfl
@[simp] theorem State.accept_nchars (s : State) : (s.accept).nchars = s.nchars := rfl
@[simp] theorem State.accept_hi (s : State) : (s.accept).hi = s.hi := rfl
@[simp] theorem State.accept_bad (s : State) : (s.accept).bad = s.bad := rfl
@[simp] theorem State.accept_idx (s : State) : (s.accept).idx = 0 := rfl
@[simp] theorem State.accept_bitidx (s : State) : (s.accept).bitidx = 7 := rfl
@[simp] theorem State.accept_status (s : State) : (s.accept).status = s.status := rfl
@[simp] theorem State.accept_buf (s : State) : (s.accept).buf = s.buf := rfl
@[simp] theorem State.accept_cfg (s : State) : (s.accept).cfg = s.cfg := rfl
@[simp] theorem State.accept_block (s : State) : (s.accept).block = s.block := rfl
@[simp] theorem State.accept_edges (s : State) : (s.accept).edges = s.edges := rfl
@[simp] theorem State.accept_taken (s : State) : (s.accept).taken = s.taken := rfl
@[simp] theorem State.accept_sent (s : State) : (s.accept).sent = s.sent := rfl

@[simp] theorem State.advance_crc (s : State) : (s.advance).crc = s.crc := rfl
@[simp] theorem State.advance_bitcnt (s : State) : (s.advance).bitcnt = s.bitcnt := rfl
@[simp] theorem State.advance_phase (s : State) : (s.advance).phase = s.phase := rfl
@[simp] theorem State.advance_nchars (s : State) : (s.advance).nchars = s.nchars := rfl
@[simp] theorem State.advance_hi (s : State) : (s.advance).hi = s.hi := rfl
@[simp] theorem State.advance_bad (s : State) : (s.advance).bad = s.bad := rfl
@[simp] theorem State.advance_idx (s : State) : (s.advance).idx = s.idx := rfl
@[simp] theorem State.advance_bitidx (s : State) : (s.advance).bitidx = s.bitidx := rfl
@[simp] theorem State.advance_status (s : State) : (s.advance).status = s.status := rfl
@[simp] theorem State.advance_buf (s : State) : (s.advance).buf = s.buf := rfl
@[simp] theorem State.advance_cfg (s : State) : (s.advance).cfg = s.cfg := rfl
@[simp] theorem State.advance_block (s : State) : (s.advance).block = s.block := rfl
@[simp] theorem State.advance_edges (s : State) : (s.advance).edges = s.edges.tail := rfl
@[simp] theorem State.advance_taken (s : State) : (s.advance).taken = s.taken := rfl
@[simp] theorem State.advance_sent (s : State) : (s.advance).sent = s.sent := rfl

@[simp] theorem State.resetEdge_crc (s : State) : (s.resetEdge).crc = 0 := rfl
@[simp] theorem State.resetEdge_bitcnt (s : State) : (s.resetEdge).bitcnt = 0 := rfl
@[simp] theorem State.resetEdge_phase (s : State) : (s.resetEdge).phase = .recv := rfl
@[simp] theorem State.resetEdge_nchars (s : State) : (s.resetEdge).nchars = 0 := rfl
@[simp] theorem State.resetEdge_hi (s : State) : (s.resetEdge).hi = 0 := rfl
@[simp] theorem State.resetEdge_bad (s : State) : (s.resetEdge).bad = false := rfl
@[simp] theorem State.resetEdge_idx (s : State) : (s.resetEdge).idx = 0 := rfl
@[simp] theorem State.resetEdge_bitidx (s : State) : (s.resetEdge).bitidx = 7 := rfl
@[simp] theorem State.resetEdge_status (s : State) : (s.resetEdge).status = 0 := rfl
@[simp] theorem State.resetEdge_buf (s : State) : (s.resetEdge).buf = [] := rfl
@[simp] theorem State.resetEdge_cfg (s : State) : (s.resetEdge).cfg = s.cfg := rfl
@[simp] theorem State.resetEdge_block (s : State) : (s.resetEdge).block = s.block := rfl
@[simp] theorem State.resetEdge_edges (s : State) : (s.resetEdge).edges = s.edges := rfl
@[simp] theorem State.resetEdge_taken (s : State) : (s.resetEdge).taken = [] := rfl
@[simp] theorem State.resetEdge_sent (s : State) : (s.resetEdge).sent = [] := rfl

@[simp] theorem State.setCell_crc (s : State) (a : Nat) (v : Byte) : (s.setCell a v).crc = s.crc := rfl
@[simp] theorem State.setCell_bitcnt (s : State) (a : Nat) (v : Byte) : (s.setCell a v).bitcnt = s.bitcnt := rfl
@[simp] theorem State.setCell_phase (s : State) (a : Nat) (v : Byte) : (s.setCell a v).phase = s.phase := rfl
@[simp] theorem State.setCell_nchars (s : State) (a : Nat) (v : Byte) : (s.setCell a v).nchars = s.nchars := rfl
@[simp] theorem State.setCell_hi (s : State) (a : Nat) (v : Byte) : (s.setCell a v).hi = s.hi := rfl
@[simp] theorem State.setCell_bad (s : State) (a : Nat) (v : Byte) : (s.setCell a v).bad = s.bad := rfl
@[simp] theorem State.setCell_idx (s : State) (a : Nat) (v : Byte) : (s.setCell a v).idx = s.idx := rfl
@[simp] theorem State.setCell_bitidx (s : State) (a : Nat) (v : Byte) : (s.setCell a v).bitidx = s.bitidx := rfl
@[simp] theorem State.setCell_status (s : State) (a : Nat) (v : Byte) : (s.setCell a v).status = s.status := rfl
@[simp] theorem State.setCell_buf (s : State) (a : Nat) (v : Byte) : (s.setCell a v).buf = s.buf.insert a v := rfl
@[simp] theorem State.setCell_cfg (s : State) (a : Nat) (v : Byte) : (s.setCell a v).cfg = s.cfg := rfl
@[simp] theorem State.setCell_block (s : State) (a : Nat) (v : Byte) : (s.setCell a v).block = s.block := rfl
@[simp] theorem State.setCell_edges (s : State) (a : Nat) (v : Byte) : (s.setCell a v).edges = s.edges := rfl
@[simp] theorem State.setCell_taken (s : State) (a : Nat) (v : Byte) : (s.setCell a v).taken = s.taken := rfl
@[simp] theorem State.setCell_sent (s : State) (a : Nat) (v : Byte) : (s.setCell a v).sent = s.sent := rfl

@[simp] theorem State.markBad_crc (s : State) : (s.markBad).crc = s.crc := rfl
@[simp] theorem State.markBad_bitcnt (s : State) : (s.markBad).bitcnt = s.bitcnt := rfl
@[simp] theorem State.markBad_phase (s : State) : (s.markBad).phase = s.phase := rfl
@[simp] theorem State.markBad_nchars (s : State) : (s.markBad).nchars = s.nchars := rfl
@[simp] theorem State.markBad_hi (s : State) : (s.markBad).hi = s.hi := rfl
@[simp] theorem State.markBad_bad (s : State) : (s.markBad).bad = true := rfl
@[simp] theorem State.markBad_idx (s : State) : (s.markBad).idx = s.idx := rfl
@[simp] theorem State.markBad_bitidx (s : State) : (s.markBad).bitidx = s.bitidx := rfl
@[simp] theorem State.markBad_status (s : State) : (s.markBad).status = s.status := rfl
@[simp] theorem State.markBad_buf (s : State) : (s.markBad).buf = s.buf := rfl
@[simp] theorem State.markBad_cfg (s : State) : (s.markBad).cfg = s.cfg := rfl
@[simp] theorem State.markBad_block (s : State) : (s.markBad).block = s.block := rfl
@[simp] theorem State.markBad_edges (s : State) : (s.markBad).edges = s.edges := rfl
@[simp] theorem State.markBad_taken (s : State) : (s.markBad).taken = s.taken := rfl
@[simp] theorem State.markBad_sent (s : State) : (s.markBad).sent = s.sent := rfl

@[simp] theorem State.holdDigit_crc (s : State) (v : Nibble) : (s.holdDigit v).crc = s.crc := rfl
@[simp] theorem State.holdDigit_bitcnt (s : State) (v : Nibble) : (s.holdDigit v).bitcnt = s.bitcnt := rfl
@[simp] theorem State.holdDigit_phase (s : State) (v : Nibble) : (s.holdDigit v).phase = s.phase := rfl
@[simp] theorem State.holdDigit_nchars (s : State) (v : Nibble) : (s.holdDigit v).nchars = s.nchars := rfl
@[simp] theorem State.holdDigit_hi (s : State) (v : Nibble) : (s.holdDigit v).hi = v := rfl
@[simp] theorem State.holdDigit_bad (s : State) (v : Nibble) : (s.holdDigit v).bad = s.bad := rfl
@[simp] theorem State.holdDigit_idx (s : State) (v : Nibble) : (s.holdDigit v).idx = s.idx := rfl
@[simp] theorem State.holdDigit_bitidx (s : State) (v : Nibble) : (s.holdDigit v).bitidx = s.bitidx := rfl
@[simp] theorem State.holdDigit_status (s : State) (v : Nibble) : (s.holdDigit v).status = s.status := rfl
@[simp] theorem State.holdDigit_buf (s : State) (v : Nibble) : (s.holdDigit v).buf = s.buf := rfl
@[simp] theorem State.holdDigit_cfg (s : State) (v : Nibble) : (s.holdDigit v).cfg = s.cfg := rfl
@[simp] theorem State.holdDigit_block (s : State) (v : Nibble) : (s.holdDigit v).block = s.block := rfl
@[simp] theorem State.holdDigit_edges (s : State) (v : Nibble) : (s.holdDigit v).edges = s.edges := rfl
@[simp] theorem State.holdDigit_taken (s : State) (v : Nibble) : (s.holdDigit v).taken = s.taken := rfl
@[simp] theorem State.holdDigit_sent (s : State) (v : Nibble) : (s.holdDigit v).sent = s.sent := rfl

@[simp] theorem State.absorbNext_crc (s : State) (b : Byte) : (s.absorbNext b).crc = s.crc ^^^ b := rfl
@[simp] theorem State.absorbNext_bitcnt (s : State) (b : Byte) : (s.absorbNext b).bitcnt = 8 := rfl
@[simp] theorem State.absorbNext_phase (s : State) (b : Byte) : (s.absorbNext b).phase = s.phase := rfl
@[simp] theorem State.absorbNext_nchars (s : State) (b : Byte) : (s.absorbNext b).nchars = s.nchars := rfl
@[simp] theorem State.absorbNext_hi (s : State) (b : Byte) : (s.absorbNext b).hi = s.hi := rfl
@[simp] theorem State.absorbNext_bad (s : State) (b : Byte) : (s.absorbNext b).bad = s.bad := rfl
@[simp] theorem State.absorbNext_idx (s : State) (b : Byte) : (s.absorbNext b).idx = s.idx + 1 := rfl
@[simp] theorem State.absorbNext_bitidx (s : State) (b : Byte) : (s.absorbNext b).bitidx = s.bitidx := rfl
@[simp] theorem State.absorbNext_status (s : State) (b : Byte) : (s.absorbNext b).status = s.status := rfl
@[simp] theorem State.absorbNext_buf (s : State) (b : Byte) : (s.absorbNext b).buf = s.buf := rfl
@[simp] theorem State.absorbNext_cfg (s : State) (b : Byte) : (s.absorbNext b).cfg = s.cfg := rfl
@[simp] theorem State.absorbNext_block (s : State) (b : Byte) : (s.absorbNext b).block = s.block := rfl
@[simp] theorem State.absorbNext_edges (s : State) (b : Byte) : (s.absorbNext b).edges = s.edges := rfl
@[simp] theorem State.absorbNext_taken (s : State) (b : Byte) : (s.absorbNext b).taken = s.taken := rfl
@[simp] theorem State.absorbNext_sent (s : State) (b : Byte) : (s.absorbNext b).sent = s.sent := rfl

@[simp] theorem State.nextBit_crc (s : State) : s.nextBit.crc = s.crc := by unfold State.nextBit; split <;> rfl
@[simp] theorem State.nextBit_bitcnt (s : State) : s.nextBit.bitcnt = s.bitcnt := by unfold State.nextBit; split <;> rfl
@[simp] theorem State.nextBit_phase (s : State) : s.nextBit.phase = s.phase := by unfold State.nextBit; split <;> rfl
@[simp] theorem State.nextBit_nchars (s : State) : s.nextBit.nchars = s.nchars := by unfold State.nextBit; split <;> rfl
@[simp] theorem State.nextBit_hi (s : State) : s.nextBit.hi = s.hi := by unfold State.nextBit; split <;> rfl
@[simp] theorem State.nextBit_bad (s : State) : s.nextBit.bad = s.bad := by unfold State.nextBit; split <;> rfl
@[simp] theorem State.nextBit_status (s : State) : s.nextBit.status = s.status := by unfold State.nextBit; split <;> rfl
@[simp] theorem State.nextBit_buf (s : State) : s.nextBit.buf = s.buf := by unfold State.nextBit; split <;> rfl
@[simp] theorem State.nextBit_cfg (s : State) : s.nextBit.cfg = s.cfg := by unfold State.nextBit; split <;> rfl
@[simp] theorem State.nextBit_block (s : State) : s.nextBit.block = s.block := by unfold State.nextBit; split <;> rfl
@[simp] theorem State.nextBit_edges (s : State) : s.nextBit.edges = s.edges := by unfold State.nextBit; split <;> rfl
@[simp] theorem State.nextBit_taken (s : State) : s.nextBit.taken = s.taken := by unfold State.nextBit; split <;> rfl
@[simp] theorem State.nextBit_sent (s : State) : s.nextBit.sent = s.sent := by unfold State.nextBit; split <;> rfl

/-- The state at the start of an invocation. -/
@[simp] theorem State.start_phase (c : Config) (b : Block) (e : List Pins) : (State.start c b e).phase = .recv := rfl
@[simp] theorem State.start_buf (c : Config) (b : Block) (e : List Pins) : (State.start c b e).buf = [] := rfl
@[simp] theorem State.start_nchars (c : Config) (b : Block) (e : List Pins) : (State.start c b e).nchars = 0 := rfl
@[simp] theorem State.start_cfg (c : Config) (b : Block) (e : List Pins) : (State.start c b e).cfg = c := rfl
@[simp] theorem State.start_block (c : Config) (b : Block) (e : List Pins) : (State.start c b e).block = b := rfl
@[simp] theorem State.start_edges (c : Config) (b : Block) (e : List Pins) : (State.start c b e).edges = e := rfl
@[simp] theorem State.start_taken (c : Config) (b : Block) (e : List Pins) : (State.start c b e).taken = [] := rfl
@[simp] theorem State.start_sent (c : Config) (b : Block) (e : List Pins) : (State.start c b e).sent = [] := rfl

/-- The reset state is the start of an invocation of the default build. -/
theorem State.reset_eq_start : State.reset = State.start Config.default .frameChecker [] := rfl

end Sys2Proof.Machine
end

