-- ==== Sys2Proof/Laws/Ops.lean ====
section
/-! SUPPORT. One lemma per shared operation of the machine: everything it can do. -/

namespace Sys2Proof.Machine

open Sys2Proof

@[simp] theorem orFault_ok {α : Type} (v : α) (k : α → Result) : orFault (.ok v) k = k v := rfl

@[simp] theorem orFault_error {α : Type} (f : Fault) (k : α → Result) : orFault (.error f) k = .fault f := rfl

/-- Going on reaches a next state only through a value. -/
theorem orFault_next {α : Type} {r : Except Fault α} {k : α → Result} {t : State} :
    orFault r k = .next t ↔ ∃ v, r = .ok v ∧ k v = .next t := by
  cases r <;> simp [orFault]

/-- A digit is held, or stored below `MAX_BYTES`, or dropped past the limit; it never faults. -/
theorem State.storeDigit_cases (s : State) (v : Nibble) :
    (s.nchars < s.textLimit ∧ s.nchars % 2 = 0 ∧ s.storeDigit v = .ok (s.holdDigit v)) ∨
    (s.nchars < s.textLimit ∧ s.nchars % 2 = 1 ∧ s.storeAddr < s.cfg.maxBytes ∧
      s.storeDigit v = .ok (s.setCell s.storeAddr (assembleByte s.hi v))) ∨
    (s.textLimit ≤ s.nchars ∧ s.storeDigit v = .ok s) := by
  unfold State.storeDigit State.memWrite
  by_cases h : s.nchars < s.textLimit
  · by_cases h2 : s.nchars % 2 = 0
    · simp [h, h2]
    · have ha : s.storeAddr < s.cfg.maxBytes := by
        unfold State.storeAddr
        unfold State.textLimit at h
        omega
      refine .inr (.inl ⟨h, by omega, ha, ?_⟩)
      simp [h, h2, ha]
  · exact .inr (.inr ⟨by omega, by simp [h]⟩)

/-- The same, field by field. -/
theorem State.storeDigit_eq (s : State) (v : Nibble) :
    s.storeDigit v = .ok
      { s with
        hi := if s.nchars < s.textLimit ∧ s.nchars % 2 = 0 then v else s.hi
        buf := if s.nchars < s.textLimit ∧ s.nchars % 2 = 1
          then s.buf.insert s.storeAddr (assembleByte s.hi v) else s.buf } := by
  rcases s.storeDigit_cases v with ⟨h1, h2, h⟩ | ⟨h1, h2, _, h⟩ | ⟨h1, h⟩
  · simp [h, h1, h2, State.holdDigit]
  · simp [h, h1, h2, State.setCell]
  · simp [h, Nat.not_lt.2 h1]

/-- A digit consumed in phase RECV always gives a next state. -/
theorem recvHex_recv {s : State} (c : Byte) (v : Nibble) (h : s.phase = .recv) :
    ∃ t, s.storeDigit v = .ok t ∧ recvHex c v s = .next (t.countChar.take (.char c)) := by
  refine ⟨_, s.storeDigit_eq v, ?_⟩
  simp [recvHex, State.recvEnabled, h, s.storeDigit_eq v]

/-- The end of a line changes phase, status and, on entering CHECK, the engine and `idx`; nothing else. -/
theorem State.endOfLine_cases (s : State) :
    (s.textLimit < s.nchars ∧ s.endOfLine = s.raise .resourceLimitExceeded) ∨
    (s.nchars ≤ s.textLimit ∧ s.malformed = true ∧ s.endOfLine = s.raise .malformedFrame) ∨
    (s.nchars ≤ s.textLimit ∧ s.malformed = false ∧ s.endOfLine = s.enterCheck) := by
  unfold State.endOfLine State.overLimit
  by_cases h : s.textLimit < s.nchars
  · simp [h]
  · cases hm : s.malformed <;> simp [h] <;> omega

theorem State.malformed_false {s : State} :
    s.malformed = false ↔ s.nchars ≠ 0 ∧ s.nchars % 2 = 0 ∧ s.bad = false := by
  simp [State.malformed, State.oddChars, and_assoc]

theorem State.engBusy_true {s : State} : s.engBusy = true ↔ s.bitcnt ≠ 0 := by simp [State.engBusy]

theorem State.engBusy_false {s : State} : s.engBusy = false ↔ s.bitcnt = 0 := by simp [State.engBusy]

/-- An engine command other than ENG.CLR: a bit step when busy, the command's own effect when idle. -/
theorem engineEdge_cases (s u : State) :
    (s.bitcnt ≠ 0 ∧ engineEdge s u = .next s.engBitstep) ∨ (s.bitcnt = 0 ∧ engineEdge s u = .next u) := by
  unfold engineEdge
  cases h : s.engBusy
  · exact .inr ⟨State.engBusy_false.1 h, by simp⟩
  · exact .inl ⟨State.engBusy_true.1 h, by simp⟩

end Sys2Proof.Machine
end

