-- ==== Sys2Proof/Laws/PerInstr.lean ====
section
/-! SUPPORT. Statements made per instruction: the family `EncodeFits`, every operation's encoding is a word of its
format (spec/30_encoding.md R45, R58). -/

namespace Sys2Proof.Laws.EncodeFits

open Sys2Proof

/-- The encoding is a number of the format's width. -/
def Statement (i : Instr) : Prop := (encode i).2 < 2 ^ (encode i).1.width

theorem recvHex0 : Statement .recvHex0 := by unfold Statement; decide
theorem recvHex1 : Statement .recvHex1 := by unfold Statement; decide
theorem recvHex2 : Statement .recvHex2 := by unfold Statement; decide
theorem recvHex3 : Statement .recvHex3 := by unfold Statement; decide
theorem recvHex4 : Statement .recvHex4 := by unfold Statement; decide
theorem recvHex5 : Statement .recvHex5 := by unfold Statement; decide
theorem recvHex6 : Statement .recvHex6 := by unfold Statement; decide
theorem recvHex7 : Statement .recvHex7 := by unfold Statement; decide
theorem recvHex8 : Statement .recvHex8 := by unfold Statement; decide
theorem recvHex9 : Statement .recvHex9 := by unfold Statement; decide
theorem recvHexUpperA : Statement .recvHexUpperA := by unfold Statement; decide
theorem recvHexUpperB : Statement .recvHexUpperB := by unfold Statement; decide
theorem recvHexUpperC : Statement .recvHexUpperC := by unfold Statement; decide
theorem recvHexUpperD : Statement .recvHexUpperD := by unfold Statement; decide
theorem recvHexUpperE : Statement .recvHexUpperE := by unfold Statement; decide
theorem recvHexUpperF : Statement .recvHexUpperF := by unfold Statement; decide
theorem recvHexLowerA : Statement .recvHexLowerA := by unfold Statement; decide
theorem recvHexLowerB : Statement .recvHexLowerB := by unfold Statement; decide
theorem recvHexLowerC : Statement .recvHexLowerC := by unfold Statement; decide
theorem recvHexLowerD : Statement .recvHexLowerD := by unfold Statement; decide
theorem recvHexLowerE : Statement .recvHexLowerE := by unfold Statement; decide
theorem recvHexLowerF : Statement .recvHexLowerF := by unfold Statement; decide
theorem recvLf : Statement .recvLf := by unfold Statement; decide
theorem recvEof : Statement .recvEof := by unfold Statement; decide
theorem recvOther (c : Byte) : Statement (.recvOther c) := (symWordOf false c).isLt
theorem engClr : Statement .engClr := by unfold Statement; decide
theorem engBitstep : Statement .engBitstep := by unfold Statement; decide
theorem engAbsorb (b : Byte) : Statement (.engAbsorb b) := (engWordOf false false true b).isLt
theorem engIdle : Statement .engIdle := by unfold Statement; decide
theorem checkAbsorb : Statement .checkAbsorb := by unfold Statement; decide
theorem checkBitstep : Statement .checkBitstep := by unfold Statement; decide
theorem checkVerify : Statement .checkVerify := by unfold Statement; decide
theorem renderBit : Statement .renderBit := by unfold Statement; decide
theorem renderLf : Statement .renderLf := by unfold Statement; decide

end Sys2Proof.Laws.EncodeFits
end

