-- ==== Sys2Proof/Laws/Step.lean ====
section
/-! SUPPORT. What one step can do (spec/70_reset_and_hazards.md R115, spec/41_frame_decoder.md R81). -/

namespace Sys2Proof.Machine

open Sys2Proof

/-- A step is the reset edge, the fetched operation, or an edge at which no register changes. -/
theorem step_cases (s : State) :
    (s.pins.rst = true ∧ step s = .next s.advance.resetEdge) ∨
    (s.pins.rst = false ∧ ∃ i, fetch s = some i ∧ step s = exec i s.advance) ∨
    (s.pins.rst = false ∧ fetch s = none ∧ step s = .next s.advance) := by
  unfold step
  cases h : s.pins.rst
  · cases hf : fetch s <;> simp
  · simp

theorem Core.run_zero (s : State) : Host.Core.run Sys2Proof.core 0 s = .next s := rfl

/-- A run peels off its first step. -/
theorem Core.run_succ_next {n : Nat} {s t : State} (h : step s = .next t) :
    Host.Core.run Sys2Proof.core (n + 1) s = Host.Core.run Sys2Proof.core n t := by
  have hs : Sys2Proof.core.step s = .next t := h
  simp only [Host.Core.run, hs]

/-- Every RECV.HEX row runs the one shared meaning on its own character and value. -/
theorem exec_hexRow : ∀ r ∈ hexRows, ∀ s, exec r.2.2 s = recvHex r.1 r.2.1 s := by
  intro r hr s
  simp only [hexRows, List.mem_cons, List.not_mem_nil, or_false] at hr
  rcases hr with rfl | rfl | rfl | rfl | rfl | rfl | rfl | rfl | rfl | rfl | rfl | rfl | rfl | rfl | rfl | rfl | rfl | rfl | rfl | rfl | rfl | rfl <;> rfl

/-- What a received character does, by its class (R48). -/
theorem exec_decodeChar (c : Byte) (s : State) : exec (decodeChar c) s =
   if c = charLF then recvLineFeed s else match hexval c with | some v => recvHex c v s | none => recvNonHex c s := by
  rcases decodeChar_cases c with ⟨r, hr, rfl, h, hv, hne⟩ | ⟨rfl, h, _⟩ | ⟨hv, hne, h⟩
  · rw [h, exec_hexRow r hr, if_neg hne, hv]
  · rw [h]; rfl
  · rw [h, if_neg hne, hv]; rfl

/-- R54: an edge of the engine as a block of its own. -/
theorem step_engine (s : State) (hb : s.block = .engine) (hr : s.pins.rst = false) :
   step s = if s.pins.engClear then .next s.advance.engClr else
     engineEdge s.advance (if s.pins.engValid then s.advance.engAbsorb s.pins.engByte else s.advance) := by
  simp only [step, hr, fetch, hb, State.engWord, decodeEng_of]
  have : s.engBusy = s.advance.engBusy := rfl
  cases s.pins.engClear <;> cases h : s.engBusy <;> cases s.pins.engValid <;> simp_all [exec, execEngClr, execEngBitstep, execEngAbsorb, execEngIdle, engineEdge]

/-- R44: an edge in RECV. -/
theorem step_recv (s : State) (hb : s.block = .frameChecker) (hp : s.phase = .recv) (hr : s.pins.rst = false) :
   step s = if s.pins.inValid then (if s.pins.inEof then recvEndOfInput s.advance else exec (decodeChar s.pins.inChar) s.advance)
     else .next s.advance := by
  simp only [step, hr, fetch, hb, fetchFrameChecker, hp, State.symWord, decodeSym_of]
  cases s.pins.inValid <;> cases s.pins.inEof <;> simp [exec, execRecvEof]

/-- R87, R88, R93: an edge in CHECK. -/
theorem step_check (s : State) (hb : s.block = .frameChecker) (hp : s.phase = .check) (hr : s.pins.rst = false) :
   step s = if s.engBusy then execCheckBitstep s.advance else if s.atLen then execCheckVerify s.advance else execCheckAbsorb s.advance := by
  simp only [step, hr, fetch, hb, fetchFrameChecker, hp, State.stateWord, decodeState_of, Phase.code]
  cases s.engBusy <;> cases s.atLen <;> simp [Except.toOption, exec]

/-- R46, R89, R92: an edge in RENDER. -/
theorem step_render (s : State) (hb : s.block = .frameChecker) (hp : s.phase = .render) (hr : s.pins.rst = false) :
   step s = if s.pins.outReady then (if s.atLen then execRenderLf s.advance else execRenderBit s.advance) else .next s.advance := by
  simp only [step, hr, fetch, hb, fetchFrameChecker, hp, State.stateWord, decodeState_of, Phase.code]
  cases s.pins.outReady <;> cases s.atLen <;> simp [Except.toOption, exec]

/-- R94: an edge in DONE. -/
theorem step_done (s : State) (hb : s.block = .frameChecker) (hp : s.phase = .done) (hr : s.pins.rst = false) :
   step s = .next s.advance := by
  simp [step, hr, fetch, hb, fetchFrameChecker, hp]

/-- R115: an edge with `rst` = 1. -/
theorem step_reset (s : State) (hr : s.pins.rst = true) : step s = .next s.advance.resetEdge := by
  simp [step, hr]

/-- Every way an edge can end in a next state, with its conditions: one constructor a step of the spec (R63 to R66, R82
to R93, R115), and `waiting` for an edge at which no step is enabled. -/
inductive StepEdge (s : State) : State → Prop where
  | reset : s.pins.rst = true → StepEdge s s.advance.resetEdge
  | engClr : s.pins.rst = false → s.block = .engine → s.pins.engClear = true → StepEdge s s.advance.engClr
  | engBitstep : s.pins.rst = false → s.block = .engine → s.pins.engClear = false → s.bitcnt ≠ 0 →
      StepEdge s s.advance.engBitstep
  | engAbsorb : s.pins.rst = false → s.block = .engine → s.pins.engClear = false → s.bitcnt = 0 →
      s.pins.engValid = true → StepEdge s (s.advance.engAbsorb s.pins.engByte)
  | engIdle : s.pins.rst = false → s.block = .engine → s.pins.engClear = false → s.bitcnt = 0 →
      s.pins.engValid = false → StepEdge s s.advance
  | hexDigit (v : Nibble) (u : State) : s.pins.rst = false → s.block = .frameChecker → s.phase = .recv →
      s.pins.inValid = true → s.pins.inEof = false → s.pins.inChar ≠ charLF → hexval s.pins.inChar = some v →
      s.advance.storeDigit v = .ok u → StepEdge s (u.countChar.take (.char s.pins.inChar))
  | otherChar : s.pins.rst = false → s.block = .frameChecker → s.phase = .recv →
      s.pins.inValid = true → s.pins.inEof = false → s.pins.inChar ≠ charLF → hexval s.pins.inChar = none →
      StepEdge s (s.advance.markBad.countChar.take (.char s.pins.inChar))
  | lineFeed : s.pins.rst = false → s.block = .frameChecker → s.phase = .recv →
      s.pins.inValid = true → s.pins.inEof = false → s.pins.inChar = charLF →
      StepEdge s (s.advance.endOfLine.take (.char charLF))
  | noInput : s.pins.rst = false → s.block = .frameChecker → s.phase = .recv →
      s.pins.inValid = true → s.pins.inEof = true → s.nchars = 0 →
      StepEdge s ((s.advance.raise .inputUnavailable).take .eof)
  | endOfInput : s.pins.rst = false → s.block = .frameChecker → s.phase = .recv →
      s.pins.inValid = true → s.pins.inEof = true → s.nchars ≠ 0 → StepEdge s (s.advance.endOfLine.take .eof)
  | absorb (b : Byte) : s.pins.rst = false → s.block = .frameChecker → s.phase = .check → s.bitcnt = 0 →
      s.idx < s.len → s.memRead s.idx = .ok b → StepEdge s (s.advance.absorbNext b)
  | bitstep : s.pins.rst = false → s.block = .frameChecker → s.phase = .check → s.bitcnt ≠ 0 →
      StepEdge s s.advance.engBitstep
  | accept : s.pins.rst = false → s.block = .frameChecker → s.phase = .check → s.bitcnt = 0 → s.idx = s.len →
      s.trailer = .ok s.crc → StepEdge s s.advance.accept
  | reject (b : Byte) : s.pins.rst = false → s.block = .frameChecker → s.phase = .check → s.bitcnt = 0 →
      s.idx = s.len → s.trailer = .ok b → s.crc ≠ b → StepEdge s (s.advance.raise .integrityMismatch)
  | bit (b : Byte) : s.pins.rst = false → s.block = .frameChecker → s.phase = .render → s.pins.outReady = true →
      s.idx < s.len → s.memRead s.idx = .ok b → StepEdge s (s.advance.nextBit.send (bitChar (s.bitOf b)))
  | newline : s.pins.rst = false → s.block = .frameChecker → s.phase = .render → s.pins.outReady = true →
      s.idx = s.len → StepEdge s (s.advance.finishOk.send charLF)
  | waiting : s.pins.rst = false → s.block = .frameChecker →
      (s.phase = .recv ∧ s.pins.inValid = false) ∨ (s.phase = .check ∧ s.bitcnt = 0 ∧ s.len < s.idx) ∨
      (s.phase = .render ∧ (s.pins.outReady = false ∨ s.len < s.idx)) ∨ s.phase = .done → StepEdge s s.advance

/-- What an edge in RECV can end in. -/
theorem stepEdge_recv {s t : State} (hr : s.pins.rst = false) (hb : s.block = .frameChecker) (hp : s.phase = .recv)
    (h : step s = .next t) : StepEdge s t := by
  rw [step_recv s hb hp hr] at h
  have hp' : s.advance.recvEnabled = true := by simp [State.recvEnabled, hp]
  split at h
  · rename_i hv
    split at h
    · rename_i he
      simp only [recvEndOfInput, hp', if_true] at h
      split at h
      · cases h; exact .noInput hr hb hp hv he (by assumption)
      · cases h; exact .endOfInput hr hb hp hv he (by assumption)
    · rename_i he
      have he := Bool.not_eq_true _ ▸ he
      rw [exec_decodeChar] at h
      split at h
      · rename_i hc
        simp only [recvLineFeed, hp', if_true] at h
        cases h
        exact .lineFeed hr hb hp hv he hc
      · rename_i hc
        split at h
        · rename_i v hx
          simp only [recvHex, hp', if_true, orFault_next] at h
          obtain ⟨u, hu, h⟩ := h
          cases h
          exact .hexDigit v u hr hb hp hv he hc hx hu
        · rename_i hx
          simp only [recvNonHex, hp', if_true] at h
          cases h
          exact .otherChar hr hb hp hv he hc hx
  · rename_i hv
    cases h
    exact .waiting hr hb (.inl ⟨hp, by simpa using hv⟩)

/-- What an edge in CHECK can end in. -/
theorem stepEdge_check {s t : State} (hr : s.pins.rst = false) (hb : s.block = .frameChecker) (hp : s.phase = .check)
    (h : step s = .next t) : StepEdge s t := by
  rw [step_check s hb hp hr] at h
  cases hz : s.engBusy with
  | true =>
    have hx : s.advance.bitstepEnabled = true := by
      simp only [State.bitstepEnabled, State.advance_phase, hp]
      exact hz
    simp only [hz, if_true, execCheckBitstep, hx] at h
    cases h
    exact .bitstep hr hb hp (State.engBusy_true.1 hz)
  | false =>
    have hz0 : s.bitcnt = 0 := State.engBusy_false.1 hz
    have hza : s.advance.engBusy = false := hz
    cases hl : s.atLen with
    | true =>
      have hla : s.advance.atLen = true := hl
      have hle : s.idx = s.len := by simpa [State.atLen] using hl
      simp only [hz, hl, if_true, execCheckVerify, State.verifyEnabled, State.advance_phase, hp, hza, hla] at h
      simp only [Bool.false_eq_true, if_false, beq_self_eq_true, Bool.not_false, Bool.and_self, if_true, orFault_next] at h
      obtain ⟨b, hb1, h⟩ := h
      split at h
      · rename_i hc
        cases h
        exact .accept hr hb hp hz0 hle (hc ▸ hb1)
      · rename_i hc
        cases h
        exact .reject b hr hb hp hz0 hle hb1 hc
    | false =>
      have hle : s.idx ≠ s.len := by simpa [State.atLen] using hl
      simp only [hz, hl, execCheckAbsorb, State.absorbEnabled, State.advance_phase, hp, hza] at h
      simp only [Bool.false_eq_true, if_false, beq_self_eq_true, Bool.not_false, Bool.true_and, decide_eq_true_eq] at h
      split at h
      · rename_i hlt
        rw [orFault_next] at h
        obtain ⟨b, hb1, h⟩ := h
        cases h
        exact .absorb b hr hb hp hz0 hlt hb1
      · rename_i hlt
        cases h
        refine .waiting hr hb (.inr (.inl ⟨hp, hz0, ?_⟩))
        have : ¬ s.idx < s.len := hlt
        omega

/-- What an edge in RENDER can end in. -/
theorem stepEdge_render {s t : State} (hr : s.pins.rst = false) (hb : s.block = .frameChecker) (hp : s.phase = .render)
    (h : step s = .next t) : StepEdge s t := by
  rw [step_render s hb hp hr] at h
  cases ho : s.pins.outReady with
  | false =>
    simp only [ho] at h
    cases h
    exact .waiting hr hb (.inr (.inr (.inl ⟨hp, .inl ho⟩)))
  | true =>
    cases hl : s.atLen with
    | true =>
      have hla : s.advance.atLen = true := hl
      simp only [ho, hl, if_true, execRenderLf, State.newlineEnabled, State.advance_phase, hp, hla, beq_self_eq_true,
        Bool.and_self] at h
      cases h
      exact .newline hr hb hp ho (by simpa [State.atLen] using hl)
    | false =>
      have hle : s.idx ≠ s.len := by simpa [State.atLen] using hl
      simp only [ho, hl, if_true, execRenderBit, State.bitEnabled, State.advance_phase, hp] at h
      simp only [Bool.false_eq_true, if_false, beq_self_eq_true, Bool.true_and, decide_eq_true_eq] at h
      split at h
      · rename_i hlt
        rw [orFault_next] at h
        obtain ⟨b, hb1, h⟩ := h
        cases h
        exact .bit b hr hb hp ho hlt hb1
      · rename_i hlt
        cases h
        refine .waiting hr hb (.inr (.inr (.inl ⟨hp, .inr ?_⟩)))
        have : ¬ s.idx < s.len := hlt
        omega

/-- What an edge of the engine as a block of its own can end in. -/
theorem stepEdge_engine {s t : State} (hr : s.pins.rst = false) (hb : s.block = .engine) (h : step s = .next t) :
    StepEdge s t := by
  rw [step_engine s hb hr] at h
  cases hc : s.pins.engClear with
  | true => simp only [hc, if_true] at h; cases h; exact .engClr hr hb hc
  | false =>
    simp only [hc] at h
    rcases engineEdge_cases s.advance (if s.pins.engValid then s.advance.engAbsorb s.pins.engByte else s.advance) with
      ⟨hz, he⟩ | ⟨hz, he⟩
    · simp only [Bool.false_eq_true, if_false, he] at h
      cases h
      exact .engBitstep hr hb hc hz
    · simp only [Bool.false_eq_true, if_false, he] at h
      cases hv : s.pins.engValid with
      | true => simp only [hv, if_true] at h; cases h; exact .engAbsorb hr hb hc hz hv
      | false => simp only [hv] at h; cases h; exact .engIdle hr hb hc hz hv

/-- Everything a step can do. -/
theorem step_next {s t : State} (h : step s = .next t) : StepEdge s t := by
  cases hr : s.pins.rst with
  | true => rw [step_reset s hr] at h; cases h; exact .reset hr
  | false =>
    cases hb : s.block with
    | engine => exact stepEdge_engine hr hb h
    | frameChecker =>
      cases hp : s.phase with
      | recv => exact stepEdge_recv hr hb hp h
      | check => exact stepEdge_check hr hb hp h
      | render => exact stepEdge_render hr hb hp h
      | done =>
        rw [step_done s hb hp hr] at h
        cases h
        exact .waiting hr hb (.inr (.inr (.inr hp)))

end Sys2Proof.Machine
end

