-- ==== Sys2Proof/Tests/Slice0.lean ====
section
/-! SUPPORT. The model's own tests. Expected results come from spec/95_test_vectors.md (section named at each test),
from the examples of the rules, or from spec/opcode_table.json. Witnesses of the statements' hypotheses stand at the
end. -/

namespace Sys2Proof.Tests

open Sys2Proof Sys2Proof.Machine

/-- The next state of an outcome, if it is one. -/
def nextOf (r : Result) : Option State :=
  match r with
  | .next s => some s
  | _ => none

/-- The fault of an outcome, if it is one. -/
def faultOf (r : Result) : Option Fault :=
  match r with
  | .fault f => some f
  | _ => none

/-- A state of a two-byte build (`MAX_BYTES` = 2), in RECV after some characters. -/
def recvState (nchars : Nat) (hi : Nibble) (bad : Bool) : State :=
  { State.start ⟨2⟩ .frameChecker [] with nchars := nchars, hi := hi, bad := bad }

/-- A state of the default build in CHECK, the frame 01 07 in the buffer. -/
def checkState (crc : Byte) (bitcnt : BitVec 4) (idx : Nat) : State :=
  { State.reset with phase := .check, nchars := 4, buf := [(0, 0x01), (1, 0x07)], crc := crc, bitcnt := bitcnt, idx := idx }

/-- A state of the default build in RENDER, the frame 03 74 in the buffer. -/
def renderState (idx : Nat) (bitidx : BitVec 3) : State :=
  { State.reset with phase := .render, nchars := 4, buf := [(0, 0x03), (1, 0x74)], crc := 0x74, idx := idx, bitidx := bitidx }

/-- The engine as a block of its own. -/
def engineState (crc : Byte) (bitcnt : BitVec 4) : State :=
  { State.start Config.default .engine [] with crc := crc, bitcnt := bitcnt }

/-! ## Well-formedness: the one check refuses what it must -/

/-- A hex digit is no operand of RECV.OTHER (R58). -/
theorem test_wf_refuses_digit : (Instr.recvOther 0x30).wf = false := by decide

/-- LF is no operand of RECV.OTHER (R58). -/
theorem test_wf_refuses_lf : (Instr.recvOther 0x0A).wf = false := by decide

/-- Section 4, "Hex digit edges": the neighbours of the digits are characters of RECV.OTHER. -/
theorem test_wf_takes_edges :
    (Instr.recvOther 0x2F).wf = true ∧ (Instr.recvOther 0x3A).wf = true ∧ (Instr.recvOther 0x40).wf = true ∧
    (Instr.recvOther 0x47).wf = true ∧ (Instr.recvOther 0x60).wf = true ∧ (Instr.recvOther 0x67).wf = true := by decide

/-! ## Decoding: words written out from the spec's encodings -/

/-- spec/opcode_table.json, rows RECV.HEX.<char>: bit 8 = 0, bits 7:0 the character code of R49. -/
theorem test_decode_hex_rows :
    decodeTableWord 9 0b000110000 = some .recvHex0 ∧
    decodeTableWord 9 0b000110001 = some .recvHex1 ∧
    decodeTableWord 9 0b000110010 = some .recvHex2 ∧
    decodeTableWord 9 0b000110011 = some .recvHex3 ∧
    decodeTableWord 9 0b000110100 = some .recvHex4 ∧
    decodeTableWord 9 0b000110101 = some .recvHex5 ∧
    decodeTableWord 9 0b000110110 = some .recvHex6 ∧
    decodeTableWord 9 0b000110111 = some .recvHex7 ∧
    decodeTableWord 9 0b000111000 = some .recvHex8 ∧
    decodeTableWord 9 0b000111001 = some .recvHex9 ∧
    decodeTableWord 9 0b001000001 = some .recvHexUpperA ∧
    decodeTableWord 9 0b001000010 = some .recvHexUpperB ∧
    decodeTableWord 9 0b001000011 = some .recvHexUpperC ∧
    decodeTableWord 9 0b001000100 = some .recvHexUpperD ∧
    decodeTableWord 9 0b001000101 = some .recvHexUpperE ∧
    decodeTableWord 9 0b001000110 = some .recvHexUpperF ∧
    decodeTableWord 9 0b001100001 = some .recvHexLowerA ∧
    decodeTableWord 9 0b001100010 = some .recvHexLowerB ∧
    decodeTableWord 9 0b001100011 = some .recvHexLowerC ∧
    decodeTableWord 9 0b001100100 = some .recvHexLowerD ∧
    decodeTableWord 9 0b001100101 = some .recvHexLowerE ∧
    decodeTableWord 9 0b001100110 = some .recvHexLowerF := by decide

/-- spec/opcode_table.json, rows RECV.LF, RECV.EOF (low bits ignored) and RECV.OTHER. -/
theorem test_decode_other_symbols :
    decodeTableWord 9 0b000001010 = some .recvLf ∧ decodeTableWord 9 0b100000000 = some .recvEof ∧
    decodeTableWord 9 0b111111111 = some .recvEof ∧ decodeTableWord 9 0b100110000 = some .recvEof ∧
    decodeTableWord 9 0b000001101 = some (.recvOther 0x0D) ∧ decodeTableWord 9 0b011111111 = some (.recvOther 0xFF) ∧
    decodeTableWord 9 0b1000000000 = none := by decide

/-- R58, format ENG, word busy, clear, valid, byte. -/
theorem test_decode_engine :
    decodeTableWord 11 0b01000000000 = some .engClr ∧ decodeTableWord 11 0b11111111111 = some .engClr ∧
    decodeTableWord 11 0b10000000000 = some .engBitstep ∧ decodeTableWord 11 0b10100000111 = some .engBitstep ∧
    decodeTableWord 11 0b00100000111 = some (.engAbsorb 0x07) ∧ decodeTableWord 11 0b00000000111 = some .engIdle := by
  decide

/-- R58, format STATE, word phase, busy, last. -/
theorem test_decode_state :
    decodeTableWord 4 0b0100 = some .checkAbsorb ∧ decodeTableWord 4 0b0110 = some .checkBitstep ∧
    decodeTableWord 4 0b0111 = some .checkBitstep ∧ decodeTableWord 4 0b0101 = some .checkVerify ∧
    decodeTableWord 4 0b1000 = some .renderBit ∧ decodeTableWord 4 0b1010 = some .renderBit ∧
    decodeTableWord 4 0b1001 = some .renderLf ∧ decodeTableWord 4 0b1011 = some .renderLf ∧
    decodeTableWord 4 0b0000 = none ∧ decodeTableWord 4 0b1100 = none := by decide

/-- A word of each format, placed after reset, is the next step's operation. -/
theorem test_placed_words_run :
    fetch (State.reset.withFetchWord 16 0x037) = some .recvHex7 ∧ fetch (State.reset.withFetchWord 16 0x100) = some .recvEof ∧
    fetch (State.reset.withFetchWord 16 0x200) = some .engClr ∧ fetch (State.reset.withFetchWord 16 0x400) = some .engBitstep ∧
    fetch (State.reset.withFetchWord 11 0x101) = some (.engAbsorb 1) ∧
    fetch (State.reset.withFetchWord 8 0x4) = some .checkAbsorb ∧ fetch (State.reset.withFetchWord 8 0x9) = some .renderLf := by
  decide

/-- Every STATE word placed after reset runs to a next state. -/
theorem test_placed_state_words_step :
    ([0x4, 0x5, 0x6, 0x8, 0x9].all fun w => (nextOf (step (State.reset.withFetchWord 8 w))).isSome) = true := by decide

/-! ## The checksum (section 3) -/

/-- Section 3, `bitstep` corner cases. -/
theorem test_bitstep_corners :
    bitstep 0x00 = 0x00 ∧ bitstep 0x01 = 0x02 ∧ bitstep 0x40 = 0x80 ∧ bitstep 0x7F = 0xFE ∧ bitstep 0x80 = 0x07 ∧
    bitstep 0x81 = 0x05 ∧ bitstep 0xC0 = 0x87 ∧ bitstep 0xFD = 0xFD ∧ bitstep 0xFF = 0xF9 := by decide

/-- Section 3, whole-sequence results. -/
theorem test_crc8_sequences :
    crc8 [0x01, 0x07] = 0x00 ∧ crc8 [0x12, 0x34] = 0xF1 ∧ crc8 [0x12, 0x34, 0x00] = 0xD9 ∧ crc8 [0xB9, 0xF9] = 0x13 ∧
    crc8 [0x31, 0x32, 0x33, 0x34, 0x35, 0x36, 0x37, 0x38, 0x39] = 0xF4 := by decide +kernel

/-- Section 2, entries of the table T. -/
theorem test_crc8_one_byte :
    crc8 [0x07] = 0x15 ∧ crc8 [0x31] = 0x97 ∧ crc8 [0x80] = 0x89 ∧ crc8 [0xFD] = 0xFD ∧ crc8 [0xFF] = 0xF3 := by decide +kernel

/-! ## The function `decode_frame` (section 4) -/

/-- A2: "FD" is accepted and rendered. -/
theorem test_decode_frame_accepts :
    decodeFrame 8000 [0x46, 0x44, 0x0A] = .ok [0x31, 0x31, 0x31, 0x31, 0x31, 0x31, 0x30, 0x31] := by decide +kernel

/-- J1, M1, M5, L2, and the pure-function vector with an interior LF. -/
theorem test_decode_frame_errors :
    decodeFrame 8000 [0x30, 0x31, 0x30, 0x37] = .error .integrityMismatch ∧
    decodeFrame 8000 [0x0A] = .error .malformedFrame ∧ decodeFrame 8000 [0x30, 0x67] = .error .malformedFrame ∧
    decodeFrame 2 [0x30, 0x30, 0x30, 0x30, 0x30] = .error .resourceLimitExceeded ∧
    decodeFrame 8000 [0x30, 0x31, 0x0A, 0x30, 0x37] = .error .malformedFrame := by decide +kernel

/-! ## The operations, one step each -/

/-- R82's example: `nchars` = 1, `hi` = 0, '1' stores 01 at 0 and gives `nchars` = 2. -/
theorem test_recvHex1_stores :
    (nextOf (exec .recvHex1 (recvState 1 0 false))).map (fun t => (t.buf, t.nchars)) = some ([(0, 0x01)], 2) := by decide

/-- The rows of RECV.HEX hold their digit at an even position (spec/opcode_table.json, `nibble`). -/
theorem test_recvHex_holds :
    ([(0x30, 0x0, .recvHex0), (0x31, 0x1, .recvHex1), (0x32, 0x2, .recvHex2), (0x33, 0x3, .recvHex3), (0x34, 0x4, .recvHex4), (0x35, 0x5, .recvHex5), (0x36, 0x6, .recvHex6), (0x37, 0x7, .recvHex7), (0x38, 0x8, .recvHex8), (0x39, 0x9, .recvHex9), (0x41, 0xA, .recvHexUpperA), (0x42, 0xB, .recvHexUpperB), (0x43, 0xC, .recvHexUpperC), (0x44, 0xD, .recvHexUpperD), (0x45, 0xE, .recvHexUpperE), (0x46, 0xF, .recvHexUpperF), (0x61, 0xA, .recvHexLowerA), (0x62, 0xB, .recvHexLowerB), (0x63, 0xC, .recvHexLowerC), (0x64, 0xD, .recvHexLowerD), (0x65, 0xE, .recvHexLowerE), (0x66, 0xF, .recvHexLowerF)] : List (Byte × Nibble × Instr)).all
      (fun r => (nextOf (exec r.2.2 (recvState 2 9 false))).map (fun t => (t.hi, t.buf, t.nchars, t.taken))
        == some (r.2.1, [], 3, [.char r.1])) = true := by decide

/-- P6, edge 5: at the limit nothing is held or stored and the counter saturates. -/
theorem test_recvHex0_past_limit :
    (nextOf (exec .recvHex0 (recvState 4 7 true))).map (fun t => (t.hi, t.buf, t.nchars)) = some (7, [], 5) ∧
    (nextOf (exec .recvHex0 (recvState 5 7 true))).map (fun t => (t.hi, t.buf, t.nchars)) = some (7, [], 5) := by decide

/-- R83's example: a space at `nchars` = 2. -/
theorem test_recvOther : (nextOf (exec (.recvOther 0x20) (recvState 2 3 false))).map
    (fun t => (t.bad, t.nchars, t.hi, t.buf)) = some (true, 3, 3, []) := by decide

/-- L2 and L4: the limit wins over odd length and over a non-hex character. -/
theorem test_recvLf_limit_first :
    (nextOf (exec .recvLf (recvState 5 0 true))).map (fun t => (t.phase, t.status)) = some (.done, 3) := by decide

/-- L1: exactly at the limit CHECK is entered, with the engine cleared. -/
theorem test_recvLf_enters_check :
    (nextOf (exec .recvLf { recvState 4 0 false with crc := 0xC2, idx := 7 })).map
      (fun t => (t.phase, t.status, t.crc, t.idx)) = some (.check, 0, 0, 0) := by decide

/-- P7: the end of input as the first symbol; M1: an empty line is another error. -/
theorem test_recvEof_first :
    (nextOf (exec .recvEof (recvState 0 0 false))).map (fun t => (t.phase, t.status)) = some (.done, 1) ∧
    (nextOf (exec .recvLf (recvState 0 0 false))).map (fun t => (t.phase, t.status)) = some (.done, 2) := by decide

/-- M4: an unterminated line of odd length. -/
theorem test_recvEof_odd :
    (nextOf (exec .recvEof (recvState 3 2 false))).map (fun t => (t.phase, t.status)) = some (.done, 2) := by decide

/-- R63's example: `crc` = C2, `bitcnt` = 3. -/
theorem test_engClr : (nextOf (exec .engClr (engineState 0xC2 3))).map (fun t => (t.crc, t.bitcnt)) = some (0, 0) := by
  decide

/-- R64's example: `crc` = 97, `b` = 32. Program E1, edge 4: an offer to a busy engine is ignored. -/
theorem test_engAbsorb :
    (nextOf (exec (.engAbsorb 0x32) (engineState 0x97 0))).map (fun t => (t.crc, t.bitcnt)) = some (0xA5, 8) ∧
    (nextOf (exec (.engAbsorb 0x07) (engineState 0x02 7))).map (fun t => (t.crc, t.bitcnt)) = some (0x04, 6) := by decide

/-- R65's example: `crc` = 80, `bitcnt` = 2. -/
theorem test_engBitstep :
    (nextOf (exec .engBitstep (engineState 0x80 2))).map (fun t => (t.crc, t.bitcnt)) = some (0x07, 1) := by decide

/-- R66's example: `crc` = C2, `bitcnt` = 0. -/
theorem test_engIdle : nextOf (exec .engIdle (engineState 0xC2 0)) = some (engineState 0xC2 0) := by decide

/-- R87's example: `idx` = 0, `buf[0]` = 01, `crc` = 00. -/
theorem test_checkAbsorb :
    (nextOf (exec .checkAbsorb (checkState 0 0 0))).map (fun t => (t.crc, t.bitcnt, t.idx)) = some (0x01, 8, 1) := by decide

/-- R93's example: `crc` = 80, `bitcnt` = 1. -/
theorem test_checkBitstep :
    (nextOf (exec .checkBitstep (checkState 0x80 1 1))).map (fun t => (t.crc, t.bitcnt, t.idx)) = some (0x07, 0, 1) := by
  decide

/-- R88's example: frame 01 07, `crc` = 00, rejected; and P3, edge 24: frame 03 74, `crc` = 74, accepted. -/
theorem test_checkVerify :
    (nextOf (exec .checkVerify (checkState 0 0 2))).map (fun t => (t.phase, t.status)) = some (.done, 4) ∧
    (nextOf (exec .checkVerify { renderState 2 3 with phase := .check })).map
      (fun t => (t.phase, t.status, t.idx, t.bitidx)) = some (.render, 0, 0, 7) := by decide

/-- P3, edge 31: the second-lowest bit of 03 is '1'; edge 32: the last bit, and the next byte. -/
theorem test_renderBit :
    (nextOf (exec .renderBit (renderState 0 1))).map (fun t => (t.sent, t.idx, t.bitidx)) = some ([0x31], 0, 0) ∧
    (nextOf (exec .renderBit (renderState 0 0))).map (fun t => (t.sent, t.idx, t.bitidx)) = some ([0x31], 1, 7) := by decide

/-- P3, edge 25: bit 7 first. -/
theorem test_renderBit_msb_first :
    (nextOf (exec .renderBit (renderState 1 6))).map (fun t => (t.sent, t.idx, t.bitidx)) = some ([0x31], 1, 5) ∧
    (renderState 0 7).outChar = some 0x30 ∧ (renderState 2 7).outChar = some 0x0A := by decide

/-- P3, edge 41. -/
theorem test_renderLf :
    (nextOf (exec .renderLf (renderState 2 7))).map (fun t => (t.phase, t.status, t.sent)) = some (.done, 0, [0x0A]) := by
  decide

/-- Section 7: `rst` = 1 at an edge overrides the step and no transfer happens. -/
theorem test_reset_overrides :
    nextOf (step { renderState 0 2 with edges := [{ rst := true, outReady := true, inValid := true }] })
      = some State.reset := by decide

/-- Section 7: with `out_ready` = 0 the character stays and nothing moves. -/
theorem test_output_stall :
    nextOf (step { renderState 0 7 with edges := [{ inValid := true }] }) = some (renderState 0 7) := by decide

/-- P8: after the end of the line an offered symbol is not consumed. -/
theorem test_done_takes_nothing :
    nextOf (step { State.reset with phase := .done, status := 4, edges := [{ inValid := true, inChar := 0x30, outReady := true }] })
      = some { State.reset with phase := .done, status := 4 } := by decide

/-- P7 as a step of the machine. -/
theorem test_step_eof :
    (nextOf (step { State.reset with edges := [{ inValid := true, inEof := true, inChar := 0x55 }] })).map
      (fun t => (t.phase, t.status, t.taken, t.edges)) = some (.done, 1, [.eof], []) := by decide

/-- R40: a load of an unwritten cell is a fault that no run reaches. -/
theorem test_unwritten_cell_faults :
    faultOf (exec .checkAbsorb { checkState 0 0 0 with buf := [] }) = some (.unwrittenCell 0) := by decide

/-- A store keeps the list sorted and replaces a cell. -/
theorem test_memory_insert :
    Memory.insert [(0, 0x01), (2, 0x03)] 1 0x02 = [(0, 0x01), (1, 0x02), (2, 0x03)] ∧
    Memory.insert [(0, 0x01), (2, 0x03)] 2 0x04 = [(0, 0x01), (2, 0x04)] ∧
    Memory.wf [(0, 0x01), (2, 0x03)] = true ∧ Memory.wf [(2, 0x01), (2, 0x03)] = false := by decide

/-! ## Witnesses: states and operands that meet the hypotheses of the statements, one for each clause -/

/-- An edge with `rst` = 1 in the middle of RENDER. -/
theorem witness_ResetEdgeSetsEveryRegister :
    ({ renderState 0 2 with edges := [{ rst := true, outReady := true }] } : State).pins.rst = true := by decide

/-- Two states of one build that differ in registers, buffer and pins, both with `rst` = 1. -/
theorem witness_ResetEdgeSetsEveryRegister_two :
    (let s : State := { renderState 0 2 with edges := [{ rst := true }] }
    let s' : State := { checkState 1 8 1 with edges := [{ rst := true, inValid := true }] }
    s.pins.rst = true ∧ s'.pins.rst = true ∧ s.cfg = s'.cfg ∧ s.block = s'.block ∧ s.edges.tail = s'.edges.tail) := by decide

/-- A digit is offered in RECV. -/
theorem witness_StepRunsSelectedOperation_recv :
    (let s : State := { State.reset with edges := [{ inValid := true, inChar := 0x37 }] }
    s.pins.rst = false ∧ s.block = .frameChecker ∧ s.phase = .recv ∧ s.pins.inValid = true ∧
    (decode .sym (symWordOf s.pins.inEof s.pins.inChar).toNat).toOption = some .recvHex7) := by decide

/-- CHECK with a byte left to absorb. -/
theorem witness_StepRunsSelectedOperation_check :
    ((checkState 0 0 0).pins.rst = false ∧ (checkState 0 0 0).phase = .check ∧
    (decode .state (stateWordOf (checkState 0 0 0).phase.code (checkState 0 0 0).engBusy (checkState 0 0 0).atLen).toNat).toOption
      = some .checkAbsorb) := by decide

/-- RENDER with the newline taken. -/
theorem witness_StepRunsSelectedOperation_render :
    (let s : State := { renderState 2 7 with edges := [{ outReady := true }] }
    s.pins.rst = false ∧ s.block = .frameChecker ∧ s.phase = .render ∧ s.pins.outReady = true ∧
    (decode .state (stateWordOf s.phase.code s.engBusy s.atLen).toNat).toOption = some .renderLf) := by decide

/-- A command to the engine as a block of its own. -/
theorem witness_StepRunsSelectedOperation_engine :
    (let s : State := { engineState 0 0 with edges := [{ engValid := true, engByte := 0x31 }] }
    s.pins.rst = false ∧ s.block = .engine ∧
    (decode .eng (engWordOf s.engBusy s.pins.engClear s.pins.engValid s.pins.engByte).toNat).toOption = some (.engAbsorb 0x31)) := by decide

/-- No symbol offered, none taken, and DONE. -/
theorem witness_StepRunsSelectedOperation_none :
    (State.reset.pins.rst = false ∧ State.reset.phase = .recv ∧ State.reset.pins.inValid = false) ∧
    ((renderState 0 7).phase = .render ∧ (renderState 0 7).pins.outReady = false) ∧
    ({ State.reset with phase := .done } : State).phase = .done := by decide

/-- A word the table numbers, of each format. -/
theorem witness_PlacedWordRunsNext :
    decodeTableWord 16 0x030 = some .recvHex0 ∧ decodeTableWord 16 0x200 = some .engClr ∧ decodeTableWord 8 0x5 = some .checkVerify := by decide

/-- Well-formed operations, operands at the ends of their ranges. -/
theorem witness_DecodeOfEncodeIsIdentity :
    (Instr.recvOther 0x00).wf = true ∧ (Instr.recvOther 0xFF).wf = true ∧ (Instr.engAbsorb 0xFF).wf = true ∧
    Instr.renderLf.wf = true := by decide

/-- Words at the ends of the formats. -/
theorem witness_DecodedOperationsAreWellFormed :
    (decode .sym 511).toOption = some .recvEof ∧ (decode .eng 2047).toOption = some .engClr ∧ (decode .state 4).toOption = some .checkAbsorb := by decide

/-- A word of each class. -/
theorem witness_SymbolClassesPartitionWords :
    symEof 0x1FF = true ∧ (symEof 0x00A = false ∧ symChar 0x00A = 0x0A) ∧
    (symEof 0x066 = false ∧ (0x66, 0xF, Instr.recvHexLowerF) ∈ hexRows ∧ symChar 0x066 = 0x66) ∧
    (symEof 0x0FF = false ∧ symChar 0x0FF ≠ 0x0A ∧ isHexDigit (symChar 0x0FF) = false) := by decide

/-- A word of each pattern. -/
theorem witness_SelectionWordsFollowOpcodeMap :
    (0x7FF : EngWord) &&& 0x200 = 0x200 ∧ (0x5FF : EngWord) &&& 0x600 = 0x400 ∧ (0x1FF : EngWord) &&& 0x700 = 0x100 ∧
    (0x0FF : EngWord) &&& 0x700 = 0x000 ∧ (0x4 : StateWord) &&& 0xF = 0x4 ∧ (0x7 : StateWord) &&& 0xE = 0x6 ∧
    (0x5 : StateWord) &&& 0xF = 0x5 ∧ (0xA : StateWord) &&& 0xD = 0x8 ∧ (0xB : StateWord) &&& 0xD = 0x9 ∧
    (0x3 : StateWord) &&& 0xC = 0x0 ∧ (0xF : StateWord) &&& 0xC = 0xC := by decide

/-- The ends of the three ranges, and their neighbours. -/
theorem witness_HexDigitValues :
    ((0x30 : Byte) ≤ 0x30 ∧ (0x39 : Byte) ≤ 0x39) ∧ ((0x41 : Byte) ≤ 0x46 ∧ (0x61 : Byte) ≤ 0x66) ∧
    (¬(0x30 ≤ (0x3A : Byte) ∧ (0x3A : Byte) ≤ 0x39) ∧ ¬(0x41 ≤ (0x3A : Byte) ∧ (0x3A : Byte) ≤ 0x46) ∧
      ¬(0x61 ≤ (0x3A : Byte) ∧ (0x3A : Byte) ≤ 0x66)) := by decide

/-- A text of two pairs. -/
theorem witness_HexPairsAssembleBytes :
    hexPairs [0x61, 0x35, 0x43, 0x32] = some [0xA5, 0xC2] ∧ ([0xA5, 0xC2] : List Byte)[1]? = some 0xC2 ∧
    ([0x61, 0x35] : List Byte).length % 2 = 0 ∧ ∀ c ∈ ([0x61, 0x35] : List Byte), isHexDigit c = true := by decide

/-- The first and the last bit. -/
theorem witness_Bits8MostSignificantFirst :
    (0 < 8 ∧ 7 < 8) ∧ (bits8 0x81)[0]? = some 0x31 ∧ (bits8 0x81)[7]? = some 0x31 := by decide

/-- Bits 3 and 7, the ends of the range. -/
theorem witness_BitstepIsPolynomialStep :
    (3 ≤ 3 ∧ 3 ≤ 7) ∧ (3 ≤ 7 ∧ 7 ≤ 7) := by decide

/-- Two sequences of one length (section 3, linearity). -/
theorem witness_CrcAlgebraicLaws :
    ([0x12, 0x34] : List Byte).length = ([0xAB, 0xCD] : List Byte).length ∧ crc8 [0xAB, 0xCD] = 0xE2 := by decide +kernel

/-- An accepted frame (A6), and its companion trailer (A7). -/
theorem witness_AcceptRuleConsequences :
    acceptFrame ([0x03] ++ [0x74]) = true ∧ acceptFrame ([0x03] ++ [0x89]) = true ∧ (0x74 : Byte) ^^^ 0xFD = 0x89 := by decide +kernel

/-- A text that does not end in LF, within the limit. -/
theorem witness_TrimRemovesOneTerminator :
    ([0x30, 0x31] : List Byte).getLast? ≠ some 0x0A ∧ ([0x30] : List Byte).length + 1 ≤ 2 * 1 ∧ (0x0D : Byte) ≠ 0x0A ∧
    isHexDigit 0x0D = false ∧ isHexDigit 0xFF = false := by decide

/-- An accepted text (A2). -/
theorem witness_RenderedFrameReproducesBytes :
    (decodeFrame 8000 [0x46, 0x44]).toOption = some (bits8 0xFD) ∧ ([0xFD] : List Byte)[0]? = some 0xFD := by decide +kernel

/-- A busy engine; a word with `eng_clear` = 1; a completed ENG.CLR. -/
theorem witness_EngClrEffect :
    (0x3FF : EngWord).getLsbD 9 = true ∧ (nextOf (exec .engClr (engineState 0xC2 8))).isSome = true := by decide

/-- An idle engine and a busy one, at both ends of `bitcnt`. -/
theorem witness_EngAbsorbEffect :
    (engineState 0x97 0).bitcnt = 0 ∧ (engineState 0x97 1).bitcnt ≠ 0 ∧ (engineState 0x97 8).bitcnt ≠ 0 := by decide

/-- The last bit step owed; a busy word. -/
theorem witness_EngBitstepEffect :
    (engineState 0x80 1).bitcnt ≠ 0 ∧ (engineState 0x80 1).bitcnt = 1 ∧ (0x5FF : EngWord).getLsbD 9 = false ∧ (0x5FF : EngWord).getLsbD 10 = true := by decide

/-- An idle engine and a busy one; an idle word. -/
theorem witness_EngIdleEffect :
    (engineState 0xC2 0).bitcnt = 0 ∧ (engineState 0xC2 8).bitcnt ≠ 0 ∧ (0x0FF : EngWord).getLsbD 9 = false ∧ (0x0FF : EngWord).getLsbD 10 = false ∧
    (0x0FF : EngWord).getLsbD 8 = false := by decide

/-- Program E1 of section 3: clear, an idle edge, one byte with a dropped offer while busy. -/
theorem witness_EngineComputesCrc8OnAnyFeed :
    ∃ (s : State) (p : Pins) (feed rest : List Pins), s.block = .engine ∧ p.rst = false ∧ p.engClear = true ∧
      EngineFeed feed [0x01] ∧ s.edges = p :: (feed ++ rest) := 
  let p : Pins := { engClear := true }
  let busy : List Pins := List.replicate 8 { engValid := true, engByte := 0x07 }
  let feed : List Pins := {} :: { engValid := true, engByte := 0x01 } :: (busy ++ [])
  ⟨{ engineState 0 0 with edges := p :: (feed ++ []) }, p, feed, [], rfl, rfl, rfl,
    .idle _ _ _ rfl rfl rfl (.byte _ busy [] _ rfl rfl rfl rfl (by decide) .done), rfl⟩

/-- RECV with room at an even and at an odd position, at the last cell, and at the limit. -/
theorem witness_RecvHexEffect :
    ((recvState 0 0 false).phase = .recv ∧ (recvState 3 0 false).nchars < 2 * (recvState 3 0 false).cfg.maxBytes ∧
      (recvState 3 0 false).nchars % 2 = 1 ∧ (recvState 2 0 false).nchars % 2 = 0) ∧
    ¬(recvState 4 0 false).nchars < 2 * (recvState 4 0 false).cfg.maxBytes := by decide

/-- A completed RECV.HEX.7 that stores, and one that holds. -/
theorem witness_RecvHexFrame :
    (recvState 3 0xA false).phase = .recv ∧ (nextOf (exec .recvHex7 (recvState 3 0xA false))).isSome = true ∧
    (nextOf (exec .recvHex7 (recvState 2 0xA false))).isSome = true := by decide

/-- A character of RECV.OTHER in RECV. -/
theorem witness_RecvOtherEffect :
    (Instr.recvOther 0x80).wf = true ∧ (recvState 5 0 false).phase = .recv := by decide

/-- One past the limit; the limit with a bad character; odd; zero; the smallest and the largest valid text. -/
theorem witness_RecvLfEffect :
    (recvState 5 0 false).phase = .recv ∧ 2 * (recvState 5 0 false).cfg.maxBytes < (recvState 5 0 false).nchars ∧
    ((recvState 4 0 true).nchars ≤ 2 * (recvState 4 0 true).cfg.maxBytes ∧ (recvState 4 0 true).bad = true) ∧
    ((recvState 3 0 false).nchars % 2 = 1) ∧ ((recvState 0 0 false).nchars = 0) ∧
    ((recvState 2 0 false).nchars ≠ 0 ∧ (recvState 2 0 false).nchars % 2 = 0 ∧ (recvState 2 0 false).bad = false) ∧
    ((recvState 4 0 false).nchars ≤ 2 * (recvState 4 0 false).cfg.maxBytes ∧ (recvState 4 0 false).nchars % 2 = 0) := by decide

/-- The same boundaries for RECV.EOF. -/
theorem witness_RecvEofEffect :
    ((recvState 0 0 true).phase = .recv ∧ (recvState 0 0 true).nchars = 0) ∧
    2 * (recvState 5 0 false).cfg.maxBytes < (recvState 5 0 false).nchars ∧
    ((recvState 1 0 false).nchars ≤ 2 * (recvState 1 0 false).cfg.maxBytes ∧ (recvState 1 0 false).nchars ≠ 0 ∧
      (recvState 1 0 false).nchars % 2 = 1) ∧
    ((recvState 4 0 false).nchars ≤ 2 * (recvState 4 0 false).cfg.maxBytes ∧ (recvState 4 0 false).nchars ≠ 0 ∧
      (recvState 4 0 false).nchars % 2 = 0 ∧ (recvState 4 0 false).bad = false) := by decide

/-- The first and the last byte of a frame. -/
theorem witness_CheckAbsorbEffect :
    ((checkState 0 0 0).phase = .check ∧ (checkState 0 0 0).bitcnt = 0 ∧ (checkState 0 0 0).idx < (checkState 0 0 0).nchars / 2 ∧
      ((checkState 0 0 0).memRead 0).toOption = some 0x01) ∧
    ((checkState 7 0 1).idx < (checkState 7 0 1).nchars / 2 ∧ ((checkState 7 0 1).memRead 1).toOption = some 0x07) := by decide

/-- The first and the last bit step of a byte. -/
theorem witness_CheckBitstepEffect :
    (checkState 1 8 1).phase = .check ∧ (checkState 1 8 1).bitcnt ≠ 0 ∧ (checkState 0x80 1 1).bitcnt ≠ 0 := by decide

/-- The first byte of the frame 01 07, with symbols offered meanwhile. -/
theorem witness_CheckAbsorbsByteInNineSteps :
    (let nine : List Pins := List.replicate 9 { inValid := true, outReady := true }
    let s : State := { checkState 0 0 0 with edges := nine ++ [] }
    s.block = .frameChecker ∧ s.phase = .check ∧ s.bitcnt = 0 ∧ s.idx < s.len ∧ (s.memRead s.idx).toOption = some 0x01 ∧
      nine.length = 9 ∧ (∀ p ∈ nine, p.rst = false) ∧ s.edges = nine ++ []) := by decide

/-- Both branches (R88's example, and 03 74). -/
theorem witness_CheckVerifyEffect :
    ((checkState 0 0 2).phase = .check ∧ (checkState 0 0 2).bitcnt = 0 ∧ (checkState 0 0 2).idx = (checkState 0 0 2).nchars / 2 ∧
      (checkState 0 0 2).nchars / 2 ≠ 0 ∧ ((checkState 0 0 2).memRead ((checkState 0 0 2).nchars / 2 - 1)).toOption = some 0x07 ∧
      (checkState 0 0 2).crc ≠ 0x07) ∧
    (((checkState 7 0 2).memRead ((checkState 7 0 2).nchars / 2 - 1)).toOption = some 0x07 ∧ (checkState 7 0 2).crc = 0x07) := by decide

/-- The frames 01 07 (rejected) and 03 74 (accepted) at CHECK's start, edges for the whole phase. -/
theorem witness_CheckVerifyEffect_frame :
    (let first : List Pins := List.replicate 18 { inValid := true }
    let s : State := { checkState 0 0 0 with edges := first ++ {} :: [] }
    s.block = .frameChecker ∧ s.phase = .check ∧ s.crc = 0x00 ∧ s.bitcnt = 0 ∧ s.idx = 0 ∧ s.nchars / 2 = [0x01, 0x07].length ∧
      [0x01, 0x07].length ≤ s.cfg.maxBytes ∧ s.buf.lookup 0 = some 0x01 ∧ s.buf.lookup 1 = some 0x07 ∧
      first.length = 9 * [0x01, 0x07].length ∧ (∀ p ∈ first, p.rst = false) ∧ ({} : Pins).rst = false) ∧
    acceptFrame [0x01, 0x07] = false ∧ acceptFrame [0x03, 0x74] = true := by decide +kernel

/-- The same, of the cells by their index. -/
theorem witness_CheckVerifyEffect_holds : (checkState 0 0 0).holds [0x01, 0x07] := by
  intro i b h
  match i, h with
  | 0, h => exact h
  | 1, h => exact h
  | i + 2, h => simp at h

/-- Bit 7 of the first byte, bit 0 of the last. -/
theorem witness_RenderBitEffect :
    ((renderState 0 7).phase = .render ∧ (renderState 0 7).idx < (renderState 0 7).nchars / 2 ∧
      ((renderState 0 7).memRead 0).toOption = some 0x03) ∧
    ((renderState 1 0).idx < (renderState 1 0).nchars / 2 ∧ ((renderState 1 0).memRead 1).toOption = some 0x74 ∧
      (renderState 1 0).bitidx = 0) := by decide

/-- Both bytes of the frame 03 74 to be taken. -/
theorem witness_RenderBitEffect_phase :
    (let taking : List Pins := List.replicate 16 { outReady := true }
    let s : State := { renderState 0 7 with edges := taking ++ [] }
    s.block = .frameChecker ∧ s.phase = .render ∧ s.idx + [0x03, 0x74].length ≤ s.nchars / 2 ∧ s.bitidx = 7 ∧
      (s.memRead (s.idx + 0)).toOption = some 0x03 ∧ (s.memRead (s.idx + 1)).toOption = some 0x74 ∧
      taking.length = 8 * [0x03, 0x74].length ∧ (∀ p ∈ taking, p.rst = false ∧ p.outReady = true)) := by decide

/-- The end of the frame. -/
theorem witness_RenderLfEffect :
    (renderState 2 7).phase = .render ∧ (renderState 2 7).idx = (renderState 2 7).nchars / 2 := by decide

/-- The last byte of the frame 03 74. -/
theorem witness_EightTransfersDeliverOneByte :
    (let eight : List Pins := List.replicate 8 { outReady := true }
    let s : State := { renderState 1 7 with edges := eight ++ [] }
    s.block = .frameChecker ∧ s.phase = .render ∧ s.idx < s.len ∧ s.bitidx = 7 ∧ (s.memRead s.idx).toOption = some 0x74 ∧
      eight.length = 8 ∧ (∀ p ∈ eight, p.rst = false ∧ p.outReady = true) ∧ s.edges = eight ++ []) := by decide

/-- DONE with a symbol offered. -/
theorem witness_DoneIsFinal :
    (let s : State := { State.reset with phase := .done, edges := [{ inValid := true, outReady := true }] }
    s.block = .frameChecker ∧ s.phase = .done ∧ s.pins.rst = false) := by decide

/-- Steps of RECV with a next state: no offer, a digit, EOF first, LF over the limit, LF malformed, LF of a valid text. -/
theorem witness_PhaseTransitions_recv :
    ([(recvState 0 0 false, ({} : Pins)), (recvState 0 0 false, { inValid := true, inChar := 0x30 }),
      (recvState 0 0 false, { inValid := true, inEof := true }), (recvState 5 0 false, { inValid := true, inChar := 0x0A }),
      (recvState 4 0 true, { inValid := true, inEof := true }), (recvState 4 0 false, { inValid := true, inChar := 0x0A })].map
      fun sp => (nextOf (step { sp.1 with edges := [sp.2] })).map fun t => (t.phase, t.status)) =
    [some (.recv, 0), some (.recv, 0), some (.done, 1), some (.done, 3), some (.done, 2), some (.check, 0)] := by decide

/-- Steps of CHECK, RENDER and DONE with a next state, the trailer readable. -/
theorem witness_PhaseTransitions_later :
    ([checkState 0 0 0, checkState 1 8 1, checkState 0 0 2, checkState 7 0 2, { renderState 0 7 with edges := [{ outReady := true }] },
      renderState 2 7, { renderState 2 7 with edges := [{ outReady := true }] }, { State.reset with phase := .done }].map
      fun s => (nextOf (step s)).map fun t => (t.phase, t.status)) =
    [some (.check, 0), some (.check, 0), some (.done, 4), some (.render, 0), some (.render, 0), some (.render, 0),
      some (.done, 0), some (.done, 0)] ∧ (checkState 0 0 2).trailer.toOption = some 0x07 := by decide

/-- A step into DONE, and one that stays in RECV. -/
theorem witness_StatusWrittenOnce :
    (let s : State := { State.reset with edges := [{ inValid := true, inEof := true }] }
    s.pins.rst = false ∧ s.phase ≠ .done ∧ (nextOf (step s)).map (·.phase) = some .done) ∧
    (nextOf (step State.reset)).map (·.phase) = some .recv := by decide

/-- A step that sets `bad` (0x67 is 'g'). -/
theorem witness_BadIsSticky :
    (let s : State := { State.reset with edges := [{ inValid := true, inChar := 0x67 }] }
    s.pins.rst = false ∧ (nextOf (step s)).map (·.bad) = some true ∧ s.bad = false) ∧
    (nextOf (step (recvState 1 0 true))).map (·.bad) = some true := by decide

/-- A step that stores the last cell of a two-byte build. -/
theorem witness_BufferStoresOnlyInRecv :
    (let s : State := { recvState 3 0xA false with edges := [{ inValid := true, inChar := 0x35 }] }
    s.pins.rst = false ∧ s.buf.lookup 1 = none ∧ (nextOf (step s)).map (fun t => t.buf.lookup 1) = some (some 0xA5)) := by decide

/-- The edge that enters CHECK with an old `crc`. -/
theorem witness_EngineRegistersChangeOnlyInCheck :
    (let s : State := { recvState 2 0 false with crc := 0xC2, edges := [{ inValid := true, inChar := 0x0A }] }
    s.block = .frameChecker ∧ s.pins.rst = false ∧ (nextOf (step s)).map (fun t => (t.phase, t.crc)) = some (.check, 0)) := by decide

/-- Each operation with a next state. -/
theorem witness_EngineOperationsFrame :
    ([Instr.engClr, .engAbsorb 0x55, .engBitstep, .engIdle, .checkBitstep].all fun i => (nextOf (exec i (checkState 1 8 1))).isSome) = true := by decide

/-- Each operation with a next state, the line end into CHECK and into DONE. -/
theorem witness_ReceivingFrame :
    ([Instr.recvLf, .recvEof, .recvOther 0x20].all fun i =>
      (nextOf (exec i (recvState 4 0 false))).isSome && (nextOf (exec i (recvState 5 0 true))).isSome) = true := by decide

/-- Each operation with a next state. -/
theorem witness_CheckAndRenderFrame :
    (nextOf (exec .checkAbsorb (checkState 0 0 0))).isSome = true ∧ (nextOf (exec .checkVerify (checkState 0 0 2))).isSome = true ∧
    (nextOf (exec .renderBit (renderState 0 7))).isSome = true ∧ (nextOf (exec .renderLf (renderState 2 7))).isSome = true := by decide

/-- One state meets all but the last clause's hypothesis, another the last two. -/
theorem witness_DisabledOperationsChangeNothing :
    ((renderState 2 7).phase ≠ .recv ∧ ¬((renderState 2 7).phase = .check ∧ (renderState 2 7).bitcnt = 0 ∧ (renderState 2 7).idx < (renderState 2 7).len) ∧
      ¬((renderState 2 7).phase = .check ∧ (renderState 2 7).bitcnt ≠ 0) ∧
      ¬((renderState 2 7).phase = .check ∧ (renderState 2 7).bitcnt = 0 ∧ (renderState 2 7).idx = (renderState 2 7).len) ∧
      ¬((renderState 2 7).phase = .render ∧ (renderState 2 7).idx < (renderState 2 7).len)) ∧
    ¬((checkState 0 0 1).phase = .render ∧ (checkState 0 0 1).idx = (checkState 0 0 1).len) ∧ (engineState 0xC2 0).bitcnt = 0 := by decide

/-- Two idle edges in RECV, and an output stall. -/
theorem witness_PausingHostsChangeNothing :
    (let s : State := { State.reset with edges := [{ inChar := 0x41 }, { outReady := true }] ++ [] }
    s.block = .frameChecker ∧ s.phase = .recv ∧ s.edges = [{ inChar := 0x41 }, { outReady := true }] ++ [] ∧
      ∀ p ∈ ([{ inChar := 0x41 }, { outReady := true }] : List Pins), p.rst = false ∧ p.inValid = false) ∧
    ((renderState 0 7).phase = .render ∧ ∀ p ∈ ([{ inValid := true }] : List Pins), p.rst = false ∧ p.outReady = false) := by decide

/-- Pins that meet each clause's hypothesis. -/
theorem witness_UnsampledPinsIgnored :
    State.reset.block = .frameChecker ∧ ({ inEof := true } : Pins).inEof = true ∧ ({} : Pins).inValid = false ∧
    (checkState 0 0 0).phase ≠ .recv ∧ State.reset.phase ≠ .render := by decide

/-- A state for each clause. -/
theorem witness_UnreadableCellsStopLoads :
    (let s : State := { checkState 0 0 1 with buf := [(0, 0x01)] };
      s.phase = .check ∧ s.bitcnt = 0 ∧ s.idx < s.len ∧ s.idx < s.cfg.maxBytes ∧ s.buf.lookup s.idx = none) ∧
    (let s : State := { checkState 0 0 1 with cfg := ⟨1⟩ };
      s.phase = .check ∧ s.bitcnt = 0 ∧ s.idx < s.len ∧ s.cfg.maxBytes ≤ s.idx) ∧
    (let s : State := { checkState 0 0 0 with nchars := 1 };
      s.phase = .check ∧ s.bitcnt = 0 ∧ s.idx = s.len ∧ s.len = 0) ∧
    (let s : State := { checkState 0 0 2 with buf := [(0, 0x01)] };
      s.idx = s.len ∧ s.len ≠ 0 ∧ s.len - 1 < s.cfg.maxBytes ∧ s.buf.lookup (s.len - 1) = none) ∧
    (let s : State := { checkState 0 0 2 with cfg := ⟨1⟩ };
      s.idx = s.len ∧ s.cfg.maxBytes < s.len) ∧
    (let s : State := { renderState 1 7 with buf := [(0, 0x03)] };
      s.phase = .render ∧ s.idx < s.len ∧ s.idx < s.cfg.maxBytes ∧ s.buf.lookup s.idx = none) ∧
    (let s : State := { renderState 1 7 with cfg := ⟨1⟩ };
      s.phase = .render ∧ s.idx < s.len ∧ s.cfg.maxBytes ≤ s.idx) := by decide

/-- The last cell that exists, and the first that does not. -/
theorem witness_LoadReturnsLatestStore :
    1 < (recvState 0 0 false).cfg.maxBytes ∧ (recvState 0 0 false).cfg.maxBytes ≤ 2 ∧ (recvState 0 0 false).buf.wf = true ∧ 0 ≠ 1 := by decide

/-- The state before CHECK.VERIFY rejects, and a step from it. -/
theorem witness_FailClosedKeptByStep :
    (checkState 0 0 2).FailClosed ∧ ∃ t, step (checkState 0 0 2) = .next t := 
  ⟨⟨fun _ => rfl, fun h => nomatch h⟩, _, rfl⟩

/-- The same state meets the invariant. -/
theorem witness_InvariantKeptByStep :
    (checkState 0 0 2).Inv ∧ ∃ t, step (checkState 0 0 2) = .next t := by
  refine ⟨⟨by decide, by decide, by decide, by decide, by decide, by decide, fun _ => rfl, ?_, ?_, ?_, ?_⟩, _, rfl⟩
  · intro h; cases h
  · exact fun _ => ⟨by decide, by decide, by decide, rfl, by decide, by unfold State.written; decide⟩
  · exact fun _ h => absurd rfl h
  · intro h; cases h

/-- Its hypothesis is the invariant. -/
theorem witness_InvariantNeverStops : (checkState 0 0 2).Inv := witness_InvariantKeptByStep.1

/-- Its hypothesis is the invariant; the state has a cell. -/
theorem witness_RegistersFitTheirWidths : (checkState 0 0 2).Inv ∧ (0, 0x01) ∈ (checkState 0 0 2).buf :=
  ⟨witness_InvariantKeptByStep.1, by decide⟩

/-- A digit transferred from reset, no symbol offered, and a reset edge; a character and the newline transferred. -/
theorem witness_TransfersAreRecorded :
    (let s : State := { State.reset with edges := [{ inValid := true, inChar := 0x37 }] }
    s.inTransfer = true ∧ s.outTransfer = false ∧ s.pins.rst = false ∧ (nextOf (step s)).map (·.taken) = some [.char 0x37]) ∧
    State.reset.inTransfer = false ∧ ({ State.reset with edges := [{ rst := true }] } : State).pins.rst = true ∧
    (let s : State := { renderState 0 1 with edges := [{ outReady := true }] }
    s.outTransfer = true ∧ s.outChar = some 0x31 ∧ (nextOf (step s)).map (·.sent) = some [0x31]) ∧
    (let s : State := { renderState 2 7 with edges := [{ outReady := true }] }
    s.outTransfer = true ∧ s.outChar = some 0x0A ∧ (nextOf (step s)).map (·.sent) = some [0x0A]) := by decide

/-- The state before the newline meets the invariant. -/
theorem witness_TransfersAreRecorded_inv : ({ renderState 2 7 with edges := [{ outReady := true }] } : State).Inv := by
  refine ⟨by decide, by decide, by decide, by decide, by decide, by decide, fun _ => rfl, ?_, ?_, ?_, fun _ _ => rfl⟩
  · intro h; cases h
  · exact fun _ => ⟨by decide, by decide, by decide, rfl, by decide, by unfold State.written; decide⟩
  · exact fun _ _ => rfl

/-- The line "0107" with its LF, all of it absorbed: the frame checker agrees with the functional level, and CHECK.VERIFY is next. -/
theorem witness_AgreementKeptByStep :
    (let s : State := { checkState 0 0 2 with taken := [.char 0x30, .char 0x31, .char 0x30, .char 0x37, .char 0x0A] }
    s.block = .frameChecker ∧ s.Agrees ∧ s.phase = .check ∧ s.bitcnt = 0 ∧ s.idx = s.nchars / 2 ∧ ∃ t, step s = .next t) := by
  refine ⟨rfl, ⟨[0x30, 0x31, 0x30, 0x37], .char 0x0A, [0x01, 0x07], ⟨rfl, by decide, .inr rfl⟩,
    ⟨by decide, by decide, by decide⟩, rfl, ?_, by decide, by decide +kernel, rfl⟩, rfl, rfl, rfl, _, rfl⟩
  intro i b h
  match i, h with
  | 0, h => exact h
  | 1, h => exact h
  | i + 2, h => simp at h

/-- A line, a terminator and enough edges. -/
theorem witness_FrameRunDeliversOutcome :
    charLF ∉ ([0x46, 0x44] : List Byte) ∧ (Sym.char charLF).endsLine ∧ Sym.eof.endsLine ∧ 17 * (([0x46, 0x44] : List Byte).length / 2) + 2 ≤ 19 := ⟨by decide, .inr rfl, .inl rfl, by decide⟩

end Sys2Proof.Tests
end

section
/-! SUPPORT. The rules about the state as a whole: its reset values (spec/10_state.md R30) and the writes of `status`
(R22), from what one step can do. -/

namespace Sys2Proof.Machine

open Sys2Proof

/-- Settles O1, every register and output read off the start of an invocation. -/
theorem resetStateValues : Obligations.ResetStateValues := by
  unfold Obligations.ResetStateValues
  exact ⟨rfl, rfl, rfl, rfl, rfl, rfl, rfl, rfl, rfl, rfl, Memory.lookup_nil, rfl, rfl, rfl⟩

/-- A digit consumed changes `hi` and the buffer at most. -/
theorem State.storeDigit_frame {s u : State} {v : Nibble} (h : s.storeDigit v = .ok u) :
    u = { s with hi := u.hi, buf := u.buf } := by
  rw [s.storeDigit_eq v] at h
  cases h
  rfl

/-- R86: the code a line end writes when it ends the invocation. -/
def State.lineEndCode (s : State) : BitVec 3 :=
  if 2 * s.cfg.maxBytes < s.nchars then ErrorKind.resourceLimitExceeded.code else ErrorKind.malformedFrame.code

/-- R22: the code the coming edge writes when it ends the invocation, by the phase it ends it from. -/
def State.endCode (s : State) : BitVec 3 :=
  match s.phase with
  | .recv => if s.pins.inEof = true ∧ s.nchars = 0 then ErrorKind.inputUnavailable.code else s.lineEndCode
  | .check => ErrorKind.integrityMismatch.code
  | .render => statusOk
  | .done => s.status

theorem State.endCode_recv {s : State} (hp : s.phase = .recv) :
    s.endCode = if s.pins.inEof = true ∧ s.nchars = 0 then ErrorKind.inputUnavailable.code else s.lineEndCode := by
  simp [State.endCode, hp]

theorem State.endCode_check {s : State} (hp : s.phase = .check) : s.endCode = ErrorKind.integrityMismatch.code := by
  simp [State.endCode, hp]

theorem State.endCode_render {s : State} (hp : s.phase = .render) : s.endCode = statusOk := by
  simp [State.endCode, hp]

/-- R22: "Values 5, 6 and 7 are never written". -/
theorem State.endCode_le_four {s : State} (hp : s.phase ≠ .done) : s.endCode.toNat ≤ 4 := by
  cases h : s.phase with
  | recv => rw [State.endCode_recv h, State.lineEndCode]; split_ifs <;> decide
  | check => rw [State.endCode_check h]; decide
  | render => rw [State.endCode_render h]; decide
  | done => exact absurd h hp

/-- A line end writes its code and enters DONE, or enters CHECK and leaves `status`. -/
theorem State.endOfLine_status (s : State) :
    (s.endOfLine.phase = .done ∧ s.endOfLine.status = s.lineEndCode) ∨
    (s.endOfLine.phase = .check ∧ s.endOfLine.status = s.status) := by
  rcases s.endOfLine_cases with ⟨hn, he⟩ | ⟨hn, -, he⟩ | ⟨-, -, he⟩
  · have hn' : 2 * s.cfg.maxBytes < s.nchars := hn
    simp [he, State.lineEndCode, hn']
  · have hn' : ¬ 2 * s.cfg.maxBytes < s.nchars := Nat.not_lt.2 hn
    simp [he, State.lineEndCode, hn']
  · simp [he]

/-- The step leaves `status`, and neither enters nor leaves DONE. -/
def State.KeepsStatus (s t : State) : Prop := t.status = s.status ∧ (t.phase = .done ↔ s.phase = .done)

/-- The step ends the invocation: it enters DONE and writes the code of the outcome. -/
def State.EndsInvocation (s t : State) : Prop := s.phase ≠ .done ∧ t.phase = .done ∧ t.status = s.endCode

theorem State.KeepsStatus.of_eq {s t : State} (hp : t.phase = s.phase) (hs : t.status = s.status) : s.KeepsStatus t :=
  ⟨hs, by rw [hp]⟩

/-- The line end of an edge in RECV, whatever symbol ended the line. -/
theorem State.endOfLine_take_status {s : State} (x : Sym) (hp : s.phase = .recv)
    (hx : ¬(s.pins.inEof = true ∧ s.nchars = 0)) :
    s.KeepsStatus (s.advance.endOfLine.take x) ∨ s.EndsInvocation (s.advance.endOfLine.take x) := by
  rcases s.advance.endOfLine_status with ⟨hd, hs⟩ | ⟨hc, hs⟩
  · refine .inr ⟨by simp [hp], hd, hs.trans ?_⟩
    rw [State.endCode_recv hp, if_neg hx]
    rfl
  · exact .inl ⟨hs, by simp [hc, hp]⟩

/-- R22: a step without reset leaves `status`, or ends the invocation with the code of the outcome. -/
theorem step_status {s t : State} (hr : s.pins.rst = false) (h : step s = .next t) :
    s.KeepsStatus t ∨ s.EndsInvocation t := by
  cases step_next h with
  | reset hrst => simp [hr] at hrst
  | engClr | engBitstep | engAbsorb | engIdle | otherChar | absorb | bitstep | bit | waiting =>
    exact .inl (.of_eq (by simp) (by simp))
  | hexDigit v u _ _ _ _ _ _ _ hu =>
    have hphase : u.phase = s.phase := by rw [State.storeDigit_frame hu, State.advance_phase]
    have hstatus : u.status = s.status := by rw [State.storeDigit_frame hu, State.advance_status]
    exact .inl (.of_eq hphase hstatus)
  | lineFeed _ _ hp _ he => exact State.endOfLine_take_status _ hp (by simp [he])
  | noInput _ _ hp _ he hn => exact .inr ⟨by simp [hp], rfl, by simp [State.endCode_recv hp, he, hn]⟩
  | endOfInput _ _ hp _ _ hn => exact State.endOfLine_take_status _ hp (by simp [hn])
  | accept _ _ hp => exact .inl ⟨rfl, by simp [hp]⟩
  | reject _ _ _ hp => exact .inr ⟨by simp [hp], rfl, by simp [State.endCode_check hp]⟩
  | newline _ _ hp => exact .inr ⟨by simp [hp], rfl, by simp [State.endCode_render hp]⟩

/-- Settles O40: of the two things a step can do to `status`, only the end of the invocation enters DONE, and it writes
the code of the phase it ends. -/
theorem statusWrittenOnce : Obligations.StatusWrittenOnce := by
  unfold Obligations.StatusWrittenOnce
  refine ⟨rfl, fun s t hr h => ?_⟩
  rcases step_status hr h with ⟨hs, hd⟩ | ⟨hp, hd, hs⟩
  · refine ⟨fun hn ht => absurd (hd.1 ht) hn, fun _ => hs, fun hz hn => ?_⟩
    rw [hs]
    exact hz (mt hd.2 hn)
  · refine ⟨fun _ _ => ?_, fun hk => ?_, fun _ hn => absurd hd hn⟩
    · rw [hs]
      exact ⟨State.endCode_le_four hp, State.endCode_recv, State.endCode_check, State.endCode_render⟩
    · exact absurd hk (by simp [hp, hd])

end Sys2Proof.Machine
end

section
/-! SUPPORT. Byte assembly (spec/20_memory.md R35, spec/30_encoding.md R51): the number two digits form, and which
texts `hexPairs` reads as which bytes. -/

namespace Sys2Proof.Machine

open Sys2Proof

/-- R35: the first digit is the more-significant nibble. -/
theorem assembleByte_toNat (x y : Nibble) : (assembleByte x y).toNat = x.toNat * 16 + y.toNat := by
  rw [assembleByte, BitVec.toNat_append, ← Nat.shiftLeft_add_eq_or_of_lt y.isLt, Nat.shiftLeft_eq]

@[simp] theorem hexPairs_nil : hexPairs [] = some [] := rfl

@[simp] theorem hexPairs_singleton (a : Byte) : hexPairs [a] = none := rfl

/-- R51: a pair of digits gives the first byte of the text, and the text after it gives the others. -/
@[simp] theorem hexPairs_cons_cons_eq_some {a c : Byte} {rest bytes : List Byte} :
    hexPairs (a :: c :: rest) = some bytes ↔
      ∃ x y tail, hexval a = some x ∧ hexval c = some y ∧ hexPairs rest = some tail ∧
        bytes = assembleByte x y :: tail := by
  rw [hexPairs]
  cases hexval a <;> cases hexval c <;> cases hexPairs rest <;> simp [eq_comm]

/-- A text that decodes has two characters for each byte. -/
theorem hexPairs_length {text bytes : List Byte} (h : hexPairs text = some bytes) :
    text.length = 2 * bytes.length := by
  induction text using List.twoStepInduction generalizing bytes with
  | nil => cases h; rfl
  | singleton a => simp at h
  | cons_cons a c rest ih _ =>
    obtain ⟨x, y, tail, -, -, ht, rfl⟩ := hexPairs_cons_cons_eq_some.1 h
    simp only [List.length_cons, ih ht]
    omega

/-- R51: byte `i` of a text that decodes is assembled from the characters at `2i` and `2i+1`. -/
theorem hexPairs_getElem? {text bytes : List Byte} (h : hexPairs text = some bytes) {i : Nat} {b : Byte}
    (hb : bytes[i]? = some b) :
    ∃ x y, text[2 * i]?.bind hexval = some x ∧ text[2 * i + 1]?.bind hexval = some y ∧ b = assembleByte x y := by
  induction text using List.twoStepInduction generalizing bytes i with
  | nil => cases h; simp at hb
  | singleton a => simp at h
  | cons_cons a c rest ih _ =>
    obtain ⟨x, y, tail, hx, hy, ht, rfl⟩ := hexPairs_cons_cons_eq_some.1 h
    cases i with
    | zero => exact ⟨x, y, by simpa using hx, by simpa using hy, by simpa using hb.symm⟩
    | succ i => simpa [Nat.mul_add] using ih ht (by simpa using hb)

/-- R51: every text of whole pairs of hex digits decodes. -/
theorem exists_hexPairs_of_even {text : List Byte} (heven : text.length % 2 = 0)
    (hdigits : ∀ c ∈ text, isHexDigit c = true) : ∃ bytes, hexPairs text = some bytes := by
  induction text using List.twoStepInduction with
  | nil => exact ⟨[], rfl⟩
  | singleton a => simp at heven
  | cons_cons a c rest ih _ =>
    have hvalue : ∀ d ∈ a :: c :: rest, ∃ v, hexval d = some v := fun d hd => Option.isSome_iff_exists.1 (hdigits d hd)
    obtain ⟨x, hx⟩ := hvalue a (by simp)
    obtain ⟨y, hy⟩ := hvalue c (by simp)
    obtain ⟨tail, ht⟩ := ih (by simpa [Nat.add_assoc] using heven) fun d hd => hdigits d (by simp [hd])
    exact ⟨_, hexPairs_cons_cons_eq_some.2 ⟨x, y, tail, hx, hy, ht, rfl⟩⟩

/-- Settles O11, by induction on the pairs of the text; the rules' examples are evaluated. -/
theorem hexPairsAssembleBytes : Obligations.HexPairsAssembleBytes := by
  unfold Obligations.HexPairsAssembleBytes
  exact ⟨assembleByte_toNat, fun text bytes h => ⟨hexPairs_length h, fun i b hb => hexPairs_getElem? h hb⟩,
    fun _ => exists_hexPairs_of_even, by decide, by decide, by decide⟩

end Sys2Proof.Machine
end

section
/-! SUPPORT. The classes of the symbol words (spec/30_encoding.md R48, R49): which words select each step, and how many
they are. -/

namespace Sys2Proof.Machine

open Sys2Proof

theorem decodeSym_of_symEof {w : SymWord} (h : symEof w = true) : decodeSym w = .recvEof := by
  simp [decodeSym, h]

theorem decodeSym_of_not_symEof {w : SymWord} (h : symEof w = false) : decodeSym w = decodeChar (symChar w) := by
  simp [decodeSym, h]

theorem decodeChar_hexRow : ∀ r ∈ hexRows, decodeChar r.1 = r.2.2 := by decide

/-- A row's operation is of none of the other three classes. -/
theorem hexRows_operation_ne :
    ∀ r ∈ hexRows, r.2.2 ≠ .recvEof ∧ r.2.2 ≠ .recvLf ∧ ∀ c : Byte, r.2.2 ≠ .recvOther c := by
  simp [hexRows]

/-- R49: the 22 hex digits are the characters of the rows. -/
theorem isHexDigit_iff_mem_hexRows (c : Byte) : isHexDigit c = true ↔ c ∈ hexRows.map (·.1) := by
  constructor
  · intro hdigit
    rcases decodeChar_cases c with ⟨r, hr, hc, -⟩ | ⟨-, -, hv⟩ | ⟨hv, -⟩
    · exact List.mem_map.2 ⟨r, hr, hc⟩
    · simp [isHexDigit, hv] at hdigit
    · simp [isHexDigit, hv] at hdigit
  · have hcodes : ∀ d ∈ hexRows.map (·.1), isHexDigit d = true := by decide
    exact hcodes c

/-- R48: the class of a character of a word with bit 8 = 0, with the operation of that class: a digit's row, RECV.LF, or
RECV.OTHER. -/
theorem decodeChar_class (c : Byte) :
    (isHexDigit c = true ∧ c ≠ charLF ∧ ∃ r ∈ hexRows, decodeChar c = r.2.2) ∨
    (isHexDigit c = false ∧ c = charLF ∧ decodeChar c = .recvLf) ∨
    (isHexDigit c = false ∧ c ≠ charLF ∧ decodeChar c = .recvOther c) := by
  rcases decodeChar_cases c with ⟨r, hr, -, hop, hv, hne⟩ | ⟨hc, hop, hv⟩ | ⟨hv, hne, hop⟩
  · exact .inl ⟨by simp [isHexDigit, hv], hne, r, hr, hop⟩
  · exact .inr (.inl ⟨by simp [isHexDigit, hv], hc, hop⟩)
  · exact .inr (.inr ⟨by simp [isHexDigit, hv], hne, hop⟩)

theorem decodeChar_ne_recvEof (c : Byte) : decodeChar c ≠ .recvEof := by
  rcases decodeChar_class c with ⟨-, -, r, hr, hop⟩ | ⟨-, -, hop⟩ | ⟨-, -, hop⟩
  · exact hop ▸ (hexRows_operation_ne r hr).1
  · simp [hop]
  · simp [hop]

theorem decodeChar_eq_recvLf_iff (c : Byte) : decodeChar c = .recvLf ↔ c = charLF := by
  rcases decodeChar_class c with ⟨-, hne, r, hr, hop⟩ | ⟨-, hc, hop⟩ | ⟨-, hne, hop⟩
  · simp [hop, hne, (hexRows_operation_ne r hr).2.1]
  · exact iff_of_true hop hc
  · simp [hop, hne]

theorem decodeChar_mem_hexRows_iff (c : Byte) : (∃ r ∈ hexRows, decodeChar c = r.2.2) ↔ isHexDigit c = true := by
  rcases decodeChar_class c with ⟨hd, -, hrow⟩ | ⟨hd, -, hop⟩ | ⟨hd, -, hop⟩
  · exact iff_of_true hrow hd
  · rw [hop, hd]
    exact iff_of_false (fun ⟨r, hr, h⟩ => (hexRows_operation_ne r hr).2.1 h.symm) (by decide)
  · rw [hop, hd]
    exact iff_of_false (fun ⟨r, hr, h⟩ => (hexRows_operation_ne r hr).2.2 c h.symm) (by decide)

theorem decodeChar_eq_recvOther_iff (c : Byte) :
    decodeChar c = .recvOther c ↔ isHexDigit c = false ∧ c ≠ charLF := by
  rcases decodeChar_class c with ⟨hd, -, r, hr, hop⟩ | ⟨hd, hc, hop⟩ | ⟨hd, hne, hop⟩
  · simp [hop, hd, (hexRows_operation_ne r hr).2.2 c]
  · exact iff_of_false (by simp [hop]) (fun h => h.2 hc)
  · simp [hop, hd, hne]

/-- The numbers of the words with bit 8 = 0 are those of their characters, and the numbers from 256 on are those of the
words with bit 8 = 1. -/
theorem ofNat_eq_symWordOf : ∀ n < 256,
    BitVec.ofNat 9 n = symWordOf false (BitVec.ofNat 8 n) ∧
    BitVec.ofNat 9 (256 + n) = symWordOf true (BitVec.ofNat 8 n) := by decide +kernel

/-- R48: "256 + 256 words", counted apart. -/
theorem length_filter_symWords (p : SymWord → Bool) :
    ((List.range 512).filter fun n => p (BitVec.ofNat 9 n)).length =
      ((List.range 256).countP fun n => p (symWordOf false (BitVec.ofNat 8 n))) +
      ((List.range 256).countP fun n => p (symWordOf true (BitVec.ofNat 8 n))) := by
  have hsplit : List.range 512 = List.range 256 ++ (List.range 256).map (256 + ·) :=
    List.range_add (n := 256) (m := 256)
  rw [← List.countP_eq_length_filter, hsplit, List.countP_append, List.countP_map]
  refine congrArg₂ (· + ·) ?_ ?_
  · exact List.countP_congr fun n hn => by rw [(ofNat_eq_symWordOf n (List.mem_range.1 hn)).1]
  · exact List.countP_congr fun n hn => by
      rw [Function.comp_apply, (ofNat_eq_symWordOf n (List.mem_range.1 hn)).2]

theorem length_filter_recvEof :
    ((List.range 512).filter fun n => decodeSym (BitVec.ofNat 9 n) == .recvEof).length = 256 := by
  rw [length_filter_symWords fun w => decodeSym w == .recvEof]
  simp [decodeSym_of, decodeChar_ne_recvEof]

theorem length_filter_recvLf :
    ((List.range 512).filter fun n => decodeSym (BitVec.ofNat 9 n) == .recvLf).length = 1 := by
  rw [length_filter_symWords fun w => decodeSym w == .recvLf]
  simp only [decodeSym_of, Bool.false_eq_true, ↓reduceIte, beq_eq_decide, decodeChar_eq_recvLf_iff]
  decide +kernel

theorem length_filter_recvHex :
    ((List.range 512).filter fun n => hexRows.any fun r => decodeSym (BitVec.ofNat 9 n) == r.2.2).length = 22 := by
  rw [length_filter_symWords fun w => hexRows.any fun r => decodeSym w == r.2.2]
  have hdigit (c : Byte) : (hexRows.any fun r => decodeChar c == r.2.2) = isHexDigit c :=
    Bool.eq_iff_iff.2 (by simpa using decodeChar_mem_hexRows_iff c)
  simp only [decodeSym_of, Bool.false_eq_true, ↓reduceIte, hdigit]
  decide +kernel

theorem length_filter_recvOther :
    ((List.range 512).filter fun n =>
      decodeSym (BitVec.ofNat 9 n) == .recvOther (symChar (BitVec.ofNat 9 n))).length = 233 := by
  rw [length_filter_symWords fun w => decodeSym w == .recvOther (symChar w)]
  simp only [decodeSym_of, symChar_of, Bool.false_eq_true, ↓reduceIte, beq_eq_decide, decodeChar_eq_recvOther_iff]
  decide +kernel

/-- Settles O8: bit 8 and the class of the character select the step; the words with bit 8 = 0 are counted by the
condition of their class, those with bit 8 = 1 are all EOF. -/
theorem symbolClassesPartitionWords : Obligations.SymbolClassesPartitionWords := by
  unfold Obligations.SymbolClassesPartitionWords
  refine ⟨fun w => decodeSym_of_symEof, fun w he hc => ?_, fun w he r hr hc => ?_, fun w he hne hd => ?_,
    isHexDigit_iff_mem_hexRows, rfl, length_filter_recvEof, length_filter_recvLf, length_filter_recvHex,
    length_filter_recvOther⟩
  · exact (decodeSym_of_not_symEof he).trans ((decodeChar_eq_recvLf_iff _).2 hc)
  · rw [decodeSym_of_not_symEof he, hc, decodeChar_hexRow r hr]
  · exact (decodeSym_of_not_symEof he).trans ((decodeChar_eq_recvOther_iff _).2 ⟨hd, hne⟩)

end Sys2Proof.Machine
end

section
/-! SUPPORT. The checksum (spec/40_crc_engine.md R59, R61): `bitstep` on numbers and on bits, and `crc8` as the loop of
the source's algorithm. -/

namespace Sys2Proof.Machine

open Sys2Proof

/-- R61: the bit tested before the shift decides whether the polynomial is added. -/
theorem bitstep_of_getLsbD {c : Byte} (h : c.getLsbD 7 = true) : bitstep c = (c <<< 1) ^^^ 0x07 := by
  rw [bitstep, if_pos h, crcPoly]

theorem bitstep_of_not_getLsbD {c : Byte} (h : c.getLsbD 7 = false) : bitstep c = c <<< 1 := by
  rw [bitstep, h, if_neg Bool.false_ne_true]

/-- R61, R62: the shift is a doubling, and both forms are cut to 8 bits. -/
theorem bitstep_toNat (c : Byte) :
    (bitstep c).toNat = if c.getLsbD 7 then ((c.toNat * 2) ^^^ 0x07) % 256 else (c.toNat * 2) % 256 := by
  have hshift : (c <<< 1).toNat = c.toNat * 2 % 256 := by simp [Nat.shiftLeft_eq]
  cases h : c.getLsbD 7
  · simp [bitstep_of_not_getLsbD h, hshift]
  · have hxor : ((c.toNat * 2) ^^^ 0x07) % 256 = c.toNat * 2 % 256 ^^^ 0x07 := Nat.xor_mod_two_pow (n := 8)
    simp [bitstep_of_getLsbD h, hshift, hxor]

/-- R61: bit `j` is the bit below it, with bit 7 added where the polynomial has a term. -/
theorem bitstep_getLsbD (c : Byte) {j : Nat} (hj : j < 8) :
    (bitstep c).getLsbD j = ((decide (1 ≤ j) && c.getLsbD (j - 1)) ^^ (c.getLsbD 7 && crcPoly.getLsbD j)) := by
  cases h : c.getLsbD 7
  · simp [bitstep_of_not_getLsbD h, hj, Nat.one_le_iff_ne_zero, -BitVec.getLsbD_eq_getElem]
  · simp [bitstep_of_getLsbD h, hj, crcPoly, Nat.one_le_iff_ne_zero, -BitVec.getLsbD_eq_getElem]

theorem bitstep_getLsbD_zero (c : Byte) : (bitstep c).getLsbD 0 = c.getLsbD 7 := by
  rw [bitstep_getLsbD c (by decide)]
  simp [crcPoly]

theorem bitstep_getLsbD_one (c : Byte) : (bitstep c).getLsbD 1 = (c.getLsbD 0 ^^ c.getLsbD 7) := by
  rw [bitstep_getLsbD c (by decide)]
  simp [crcPoly]

theorem bitstep_getLsbD_two (c : Byte) : (bitstep c).getLsbD 2 = (c.getLsbD 1 ^^ c.getLsbD 7) := by
  rw [bitstep_getLsbD c (by decide)]
  simp [crcPoly]

/-- R61: the polynomial has no term from x^3 to x^7. -/
theorem crcPoly_getLsbD_of_three_le {j : Nat} (hj : 3 ≤ j) : crcPoly.getLsbD j = false :=
  Nat.testBit_lt_two_pow (Nat.lt_of_lt_of_le (by decide) (Nat.pow_le_pow_right (by decide) hj))

theorem bitstep_getLsbD_of_three_le (c : Byte) {j : Nat} (h3 : 3 ≤ j) (h7 : j ≤ 7) :
    (bitstep c).getLsbD j = c.getLsbD (j - 1) := by
  have h1 : 1 ≤ j := by omega
  simp [bitstep_getLsbD c (Nat.lt_succ_of_le h7), crcPoly_getLsbD_of_three_le h3, h1]

/-- R59's test of the top bit is R61's. -/
theorem getLsbD_seven_iff (c : Byte) : c.getLsbD 7 = true ↔ c &&& 0x80 ≠ 0 := by
  have hmask : c &&& 0x80 = if c.getLsbD 7 then 0x80 else 0 := BitVec.and_twoPow c 7
  rw [hmask]
  cases c.getLsbD 7 <;> decide

/-- Settles O13: the two cases of the tested bit give the formula, and the bits of the polynomial give the bits. -/
theorem bitstepIsPolynomialStep : Obligations.BitstepIsPolynomialStep := by
  unfold Obligations.BitstepIsPolynomialStep
  exact ⟨bitstep_toNat, fun c => ⟨bitstep_getLsbD_zero c, bitstep_getLsbD_one c, bitstep_getLsbD_two c,
    fun _ => bitstep_getLsbD_of_three_le c⟩, getLsbD_seven_iff⟩

/-- R59: the body of the source's loop is `bitstep`. -/
theorem bitstep_eq_loopBody : bitstep = fun c : Byte => if c &&& 0x80 ≠ 0 then (c <<< 1) ^^^ 0x07 else c <<< 1 := by
  funext c
  simp only [bitstep, crcPoly, getLsbD_seven_iff]

theorem bitsteps_eq_iterate (n : Nat) (c : Byte) : bitsteps n c = bitstep^[n] c := by
  induction n generalizing c with
  | zero => rfl
  | succ n ih => rw [bitsteps_succ, ih, Function.iterate_succ_apply]

/-- Settles O14: a byte more is eight passes of `bitstep`, which is the loop's body; R71's vectors are evaluated. -/
theorem crc8FollowsTheLoop : Obligations.Crc8FollowsTheLoop := by
  unfold Obligations.Crc8FollowsTheLoop
  refine ⟨crc8_nil, fun bytes b => ?_, by decide +kernel, by decide +kernel⟩
  rw [crc8_append_singleton, crcByte, bitsteps_eq_iterate, bitstep_eq_loopBody]

end Sys2Proof.Machine
end

section
/-! SUPPORT. The engine's operations (spec/40_crc_engine.md R63 to R66): their meanings by `bitcnt`, and the words that
select them (spec/30_encoding.md R54, R58). -/

namespace Sys2Proof.Machine

open Sys2Proof

/-- R54: with `eng_clear` = 0 a busy engine takes a bit step, whatever is offered. -/
theorem engineEdge_of_busy {s : State} (u : State) (h : s.bitcnt ≠ 0) : engineEdge s u = .next s.engBitstep := by
  rcases engineEdge_cases s u with ⟨-, he⟩ | ⟨hz, -⟩
  · exact he
  · exact absurd hz h

/-- R54: an idle engine does what the command asks. -/
theorem engineEdge_of_idle {s : State} (u : State) (h : s.bitcnt = 0) : engineEdge s u = .next u := by
  rcases engineEdge_cases s u with ⟨hn, -⟩ | ⟨-, he⟩
  · exact absurd h hn
  · exact he

theorem exec_engClr (s : State) : exec .engClr s = .next s.engClr := rfl

theorem exec_engAbsorb (b : Byte) (s : State) : exec (.engAbsorb b) s = engineEdge s (s.engAbsorb b) := rfl

theorem exec_engBitstep (s : State) : exec .engBitstep s = engineEdge s s := rfl

theorem decodeEng_of_clear {w : EngWord} (hc : w.getLsbD 9 = true) : decodeEng w = .engClr := by
  simp [decodeEng, engWordClear, hc]

theorem decodeEng_of_busy {w : EngWord} (hc : w.getLsbD 9 = false) (hb : w.getLsbD 10 = true) :
    decodeEng w = .engBitstep := by
  simp only [decodeEng, engWordClear, engWordBusy, hc, hb, Bool.false_eq_true, ↓reduceIte]

/-- The number of an engine selection word is decoded as that word. -/
theorem decode_eng_toNat (w : EngWord) : decode .eng w.toNat = .ok (decodeEng w) := by
  have hw : w.toNat < 2 ^ Format.eng.width := w.isLt
  rw [decode, if_pos hw, BitVec.ofNat_toNat, BitVec.setWidth_eq]

/-- Settles O20: ENG.CLR is one write of both registers, and its bit of the word is tested first. -/
theorem engClrEffect : Obligations.EngClrEffect := by
  unfold Obligations.EngClrEffect
  refine ⟨exec_engClr, fun w => decodeEng_of_clear, fun s t h => ?_⟩
  rw [exec_engClr] at h
  cases h
  exact ⟨rfl, rfl⟩

/-- The bit steps keep 0x00 (R64). -/
@[simp] theorem bitsteps_zero_byte (n : Nat) : bitsteps n 0x00 = 0x00 := by
  induction n with
  | zero => rfl
  | succ n ih => exact ih

/-- Settles O21, by what an edge of the engine does when it is idle and when it is busy. -/
theorem engAbsorbEffect : Obligations.EngAbsorbEffect := by
  unfold Obligations.EngAbsorbEffect
  refine ⟨fun s b hz => ?_, fun s b hn => ?_, fun b => ?_,
    fun s => ⟨BitVec.xor_zero, BitVec.xor_self⟩, bitsteps_zero_byte 8⟩
  · exact (exec_engAbsorb b s).trans (engineEdge_of_idle _ hz)
  · exact (exec_engAbsorb b s).trans (engineEdge_of_busy _ hn)
  · simp [decode_eng_toNat, decodeEng_of]

/-- R65: every bit of a fixed point is bit 7, but bit 1, which is 0. -/
theorem getLsbD_of_bitstep_eq {c : Byte} (h : bitstep c = c) {j : Nat} (hj : j < 8) :
    c.getLsbD j = (c.getLsbD 7 && decide (j ≠ 1)) := by
  have h0 := bitstep_getLsbD_zero c
  have h1 := bitstep_getLsbD_one c
  have h2 := bitstep_getLsbD_two c
  have hhigh (k : Nat) := bitstep_getLsbD_of_three_le c (j := k + 3)
  rw [h] at h0 h1 h2 hhigh
  rw [h0, Bool.xor_self] at h1
  rw [h1, Bool.false_xor] at h2
  have hup (k : Nat) (hk : k + 2 ≤ 7) : c.getLsbD (k + 2) = c.getLsbD 7 := by
    induction k with
    | zero => exact h2
    | succ k ih => exact (hhigh k (by omega) hk).trans (ih (by omega))
  match j with
  | 0 => simpa using h0
  | 1 => simpa using h1
  | k + 2 => simpa using hup k (by omega)

/-- R65: "0x00 and 0xFD are the only fixed points". -/
theorem bitstep_eq_self_iff (c : Byte) : bitstep c = c ↔ c = 0x00 ∨ c = 0xFD := by
  constructor
  · intro h
    have hbits : ∀ b : Bool, ∀ j < 8, (if b then 0xFD else 0x00 : Byte).getLsbD j = (b && decide (j ≠ 1)) := by
      decide
    have hc : c = if c.getLsbD 7 then 0xFD else 0x00 :=
      BitVec.eq_of_getLsbD_eq fun j hj => (getLsbD_of_bitstep_eq h hj).trans (hbits _ j hj).symm
    cases h7 : c.getLsbD 7 <;> rw [h7] at hc
    · exact .inl hc
    · exact .inr hc
  · rintro (rfl | rfl) <;> rfl

/-- Settles O22: a busy engine's edge is one bit step, and the step that pays the last one owed ends idle. -/
theorem engBitstepEffect : Obligations.EngBitstepEffect := by
  unfold Obligations.EngBitstepEffect
  refine ⟨fun s hn => ?_, fun w => decodeEng_of_busy, rfl, rfl, rfl, bitstep_eq_self_iff, fun s hs => ?_⟩
  · exact (exec_engBitstep s).trans (engineEdge_of_busy _ hn)
  · exact State.engBusy_false.2 (by simp [hs])

end Sys2Proof.Machine
end

section
/-! SUPPORT. The function `decode_frame` (spec/41_frame_decoder.md R73 to R79, R90): what trimming leaves, which texts
decode to no byte sequence, and what the function answers on each. -/

namespace Sys2Proof.Machine

open Sys2Proof

/-! ## The bit characters of a byte -/

/-- R90: the character at position `i` is that of bit `7 - i`. -/
theorem bits8_eq_map_range (b : Byte) : bits8 b = (List.range 8).map fun i => bitChar (b.getLsbD (7 - i)) := rfl

@[simp] theorem bits8_length (b : Byte) : (bits8 b).length = 8 := rfl

theorem bits8_getElem? (b : Byte) {i : Nat} (hi : i < 8) : (bits8 b)[i]? = some (bitChar (b.getLsbD (7 - i))) := by
  simp [bits8_eq_map_range, hi]

/-- Settles O12, from the characters read off position by position; the rule's examples are evaluated. -/
theorem bits8MostSignificantFirst : Obligations.Bits8MostSignificantFirst := by
  unfold Obligations.Bits8MostSignificantFirst
  exact ⟨bits8_length, fun b i hi => bits8_getElem? b hi, rfl, rfl, rfl, rfl⟩

/-! ## Trimming (R74) -/

theorem trimLine_append_lf (text : List Byte) : trimLine (text ++ [charLF]) = text := by
  simp [trimLine]

theorem trimLine_of_getLast?_ne {text : List Byte} (h : text.getLast? ≠ some charLF) : trimLine text = text :=
  if_neg h

theorem trimLine_append_of_ne (text : List Byte) {c : Byte} (hc : c ≠ charLF) :
    trimLine (text ++ [c]) = text ++ [c] :=
  trimLine_of_getLast?_ne (by simpa using hc)

theorem trimLine_append_lf_lf (text : List Byte) : trimLine (text ++ [charLF, charLF]) = text ++ [charLF] := by
  rw [← trimLine_append_lf (text ++ [charLF]), List.append_assoc, List.singleton_append]

theorem trimLine_length_le (text : List Byte) : (trimLine text).length ≤ text.length := by
  unfold trimLine
  split
  · simp
  · exact Nat.le_refl _

/-- R74: only an LF is ever removed. -/
theorem mem_trimLine {text : List Byte} {c : Byte} (hmem : c ∈ text) (hc : c ≠ charLF) : c ∈ trimLine text := by
  unfold trimLine
  split
  next hlast =>
    rw [← List.dropLast_append_getLast? charLF hlast, List.mem_append] at hmem
    exact hmem.resolve_right (by simpa using hc)
  next => exact hmem

/-! ## Which texts decode to bytes (R76) -/

/-- A text that decodes is made of hex digits. -/
theorem isHexDigit_of_hexPairs {text bytes : List Byte} (h : hexPairs text = some bytes) :
    ∀ c ∈ text, isHexDigit c = true := by
  induction text using List.twoStepInduction generalizing bytes with
  | nil => simp
  | singleton a => simp at h
  | cons_cons a c rest ih _ =>
    obtain ⟨x, y, tail, hx, hy, ht, -⟩ := hexPairs_cons_cons_eq_some.1 h
    simpa [isHexDigit, hx, hy] using ih ht

/-- Exactly the texts of odd length and those with a non-hex character do not decode. -/
theorem hexPairs_eq_none_iff (text : List Byte) :
    hexPairs text = none ↔ text.length % 2 = 1 ∨ ∃ c ∈ text, isHexDigit c = false := by
  constructor
  · intro hnone
    by_contra hgood
    push Not at hgood
    obtain ⟨hodd, hdigits⟩ := hgood
    have heven : text.length % 2 = 0 := Nat.mod_two_ne_one.1 hodd
    obtain ⟨bytes, hsome⟩ := exists_hexPairs_of_even heven fun c hc => by simpa using hdigits c hc
    simp [hnone] at hsome
  · intro hbad
    by_contra hsome
    obtain ⟨bytes, hsome⟩ := Option.ne_none_iff_exists'.1 hsome
    rcases hbad with hodd | ⟨c, hc, hdigit⟩
    · have hlength := hexPairs_length hsome
      omega
    · simp [isHexDigit_of_hexPairs hsome c hc] at hdigit

/-- A text that decodes gives no bytes exactly when it has no characters. -/
theorem hexPairs_bytes_eq_nil_iff {text bytes : List Byte} (h : hexPairs text = some bytes) :
    bytes = [] ↔ text.length = 0 := by
  rw [hexPairs_length h, ← List.length_eq_zero_iff]
  omega

/-! ## What `decode_frame` answers (R73, R103) -/

theorem decodeFrame_of_tooLong {maxBytes : Nat} {text : List Byte} (h : 2 * maxBytes < (trimLine text).length) :
    decodeFrame maxBytes text = .error .resourceLimitExceeded := by
  simp [decodeFrame, h]

theorem decodeFrame_of_malformed {maxBytes : Nat} {text : List Byte} (hle : (trimLine text).length ≤ 2 * maxBytes)
    (hbad : (trimLine text).length = 0 ∨ (trimLine text).length % 2 = 1 ∨
      ∃ c ∈ trimLine text, isHexDigit c = false) :
    decodeFrame maxBytes text = .error .malformedFrame := by
  rw [← hexPairs_eq_none_iff] at hbad
  rw [decodeFrame, if_neg (Nat.not_lt.2 hle)]
  split
  · rfl
  next hlength => rw [hbad.resolve_left fun h0 => hlength (.inl h0)]

theorem decodeFrame_of_bytes {maxBytes : Nat} {text bytes : List Byte} (hle : (trimLine text).length ≤ 2 * maxBytes)
    (hbytes : hexPairs (trimLine text) = some bytes) (hne : bytes ≠ []) :
    decodeFrame maxBytes text =
      if bytes.getLast? = some (crc8 bytes) then .ok (bytes.flatMap bits8) else .error .integrityMismatch := by
  have hlength : ¬((trimLine text).length = 0 ∨ (trimLine text).length % 2 = 1) := by
    have hzero := mt (hexPairs_bytes_eq_nil_iff hbytes).2 hne
    have hpairs := hexPairs_length hbytes
    omega
  rw [decodeFrame, if_neg (Nat.not_lt.2 hle), if_neg hlength, hbytes]
  simp [acceptFrame, renderBytes]

/-- The function's answer depends on the trimmed text alone. -/
theorem decodeFrame_congr {maxBytes : Nat} {text text' : List Byte} (h : trimLine text = trimLine text') :
    decodeFrame maxBytes text = decodeFrame maxBytes text' := by
  rw [decodeFrame, decodeFrame, h]

/-- R76: a character of the trimmed text that is no hex digit makes it malformed. -/
theorem decodeFrame_of_mem_trimLine {maxBytes : Nat} {text : List Byte} {c : Byte}
    (hle : (trimLine text).length ≤ 2 * maxBytes) (hmem : c ∈ trimLine text) (hdigit : isHexDigit c = false) :
    decodeFrame maxBytes text = .error .malformedFrame :=
  decodeFrame_of_malformed hle (.inr (.inr ⟨c, hmem, hdigit⟩))

/-- Settles O17: over the limit, undecodable, empty, or a byte sequence that is accepted or not; each case has its one
answer, and no condition of another. -/
theorem decodeFrameOutcomes : Obligations.DecodeFrameOutcomes := by
  unfold Obligations.DecodeFrameOutcomes
  intro maxBytes text
  rcases Nat.lt_or_ge (2 * maxBytes) (trimLine text).length with hlong | hle
  · simp [decodeFrame_of_tooLong hlong, hlong, Nat.not_le.2 hlong]
  by_cases hbad : (trimLine text).length = 0 ∨ (trimLine text).length % 2 = 1 ∨
      ∃ c ∈ trimLine text, isHexDigit c = false
  · have hnobytes : ∀ bytes, bytes ≠ [] → hexPairs (trimLine text) ≠ some bytes := by
      intro bytes hne hbytes
      rw [← hexPairs_eq_none_iff, hbytes, ← hexPairs_bytes_eq_nil_iff hbytes] at hbad
      simp [hne] at hbad
    rw [decodeFrame_of_malformed hle hbad]
    refine ⟨by simp [hle], iff_of_true rfl ⟨hle, hbad⟩, ?_, fun out => ?_⟩
    · exact iff_of_false (by simp) fun ⟨_, bytes, hne, hbytes, _⟩ => hnobytes bytes hne hbytes
    · exact iff_of_false (by simp) fun ⟨_, bytes, hne, hbytes, _⟩ => hnobytes bytes hne hbytes
  · have hsome : hexPairs (trimLine text) ≠ none := fun h => hbad (.inr ((hexPairs_eq_none_iff _).1 h))
    obtain ⟨bytes, hbytes⟩ := Option.ne_none_iff_exists'.1 hsome
    have hne : bytes ≠ [] := fun h => hbad (.inl ((hexPairs_bytes_eq_nil_iff hbytes).1 h))
    rw [decodeFrame_of_bytes hle hbytes hne]
    refine ⟨?_, iff_of_false ?_ fun h => hbad h.2, ?_, fun out => ?_⟩
    · split <;> simp [hle]
    · split <;> simp
    · simp [hle, hbytes, hne]
    · split <;> simp [*, eq_comm]

/-- Settles O18: trimming by the last character, and a non-hex character left after it makes the text malformed. -/
theorem trimRemovesOneTerminator : Obligations.TrimRemovesOneTerminator := by
  unfold Obligations.TrimRemovesOneTerminator
  refine ⟨trimLine_append_lf, fun text c hc => trimLine_append_of_ne text hc, rfl, fun maxBytes text hlast => ?_,
    fun maxBytes text hle => ?_, fun maxBytes text c hle hdigit hc => ⟨?_, ?_⟩, by decide, by decide, by decide⟩
  · exact decodeFrame_congr ((trimLine_append_lf text).trans (trimLine_of_getLast?_ne hlast).symm)
  · have htrim : trimLine (text ++ [0x0A, 0x0A]) = text ++ [charLF] := trimLine_append_lf_lf text
    exact decodeFrame_of_mem_trimLine (c := charLF) (by rw [htrim]; simpa using hle)
      (htrim ▸ List.mem_concat_self) (by decide)
  · have htrim := trimLine_append_of_ne text hc
    exact decodeFrame_of_mem_trimLine (by simpa [htrim] using hle) (by simp [htrim]) hdigit
  · exact decodeFrame_of_mem_trimLine ((trimLine_length_le _).trans hle) (mem_trimLine (by simp) hc) hdigit

end Sys2Proof.Machine
end

section
/-! SUPPORT. The operations of RECV (spec/41_frame_decoder.md R82 to R86): the words that select them, and the end of a
line by its tests. -/

namespace Sys2Proof.Machine

open Sys2Proof

/-! ## The symbol words as numbers (R45) -/

/-- The number of a symbol word is decoded as that word. -/
theorem decode_sym_toNat (w : SymWord) : decode .sym w.toNat = .ok (decodeSym w) := by
  have hw : w.toNat < 2 ^ Format.sym.width := w.isLt
  rw [decode, if_pos hw, BitVec.ofNat_toNat, BitVec.setWidth_eq]

/-- R45: the number of a symbol word is that of its low bits, and 0x100 more with bit 8. -/
theorem symWordOf_toNat (eof : Bool) (c : Byte) :
    (symWordOf eof c).toNat = (if eof then 0x100 else 0) + c.toNat := by
  rw [symWordOf, BitVec.toNat_append, ← Nat.shiftLeft_add_eq_or_of_lt c.isLt]
  cases eof <;> rfl

/-- A character's code, as a word, selects the step of the character's class. -/
theorem decode_sym_char (c : Byte) : decode .sym c.toNat = .ok (decodeChar c) := by
  have h := decode_sym_toNat (symWordOf false c)
  rwa [symWordOf_toNat, decodeSym_of, if_neg Bool.false_ne_true, if_neg Bool.false_ne_true, Nat.zero_add] at h

/-- A word with bit 8 = 1 selects RECV.EOF, whatever its low bits are. -/
theorem decode_sym_eof (c : Byte) : decode .sym (0x100 + c.toNat) = .ok .recvEof := by
  have h := decode_sym_toNat (symWordOf true c)
  rwa [symWordOf_toNat, decodeSym_of, if_pos rfl, if_pos rfl] at h

/-! ## Characters (R82, R83) -/

theorem hexval_hexRow : ∀ r ∈ hexRows, hexval r.1 = some r.2.1 := by decide

theorem State.recvEnabled_of_recv {s : State} (hp : s.phase = .recv) : s.recvEnabled = true := by
  simp [State.recvEnabled, hp]

theorem exec_recvOther_recv {s : State} (c : Byte) (hp : s.phase = .recv) :
    exec (.recvOther c) s = .next (s.markBad.countChar.take (.char c)) :=
  if_pos (State.recvEnabled_of_recv hp)

/-- Settles O25: a row's code is decoded to the row, and its operation stores the digit and counts the character. -/
theorem recvHexEffect : Obligations.RecvHexEffect := by
  unfold Obligations.RecvHexEffect
  refine ⟨rfl, fun r hr => ⟨?_, hexval_hexRow r hr, fun s hp => ⟨s.taken ++ [.char r.1], ?_⟩⟩⟩
  · rw [decode_sym_char, decodeChar_hexRow r hr]
  · obtain ⟨t, hstore, hexec⟩ := recvHex_recv r.1 r.2.1 hp
    rw [s.storeDigit_eq] at hstore
    cases hstore
    exact (exec_hexRow r hr s).trans hexec

/-- Settles O27: the well-formed operands are the characters of RECV.OTHER's class. -/
theorem recvOtherEffect : Obligations.RecvOtherEffect := by
  unfold Obligations.RecvOtherEffect
  intro c hwf
  have hclass : isHexDigit c = false ∧ c ≠ charLF := by simpa [Instr.wf] using hwf
  exact ⟨by rw [decode_sym_char, (decodeChar_eq_recvOther_iff c).2 hclass],
    fun s hp => ⟨s.taken ++ [Sym.char c], exec_recvOther_recv c hp⟩⟩

/-! ## The end of a line (R84 to R86) -/

theorem State.endOfLine_of_overLimit {s : State} (h : 2 * s.cfg.maxBytes < s.nchars) :
    s.endOfLine = s.raise .resourceLimitExceeded :=
  if_pos (decide_eq_true h)

theorem State.malformed_true {s : State} :
    s.malformed = true ↔ s.nchars = 0 ∨ s.nchars % 2 = 1 ∨ s.bad = true := by
  simp [State.malformed, State.oddChars, or_assoc]

theorem State.endOfLine_of_malformed {s : State} (hle : s.nchars ≤ 2 * s.cfg.maxBytes)
    (hbad : s.nchars = 0 ∨ s.nchars % 2 = 1 ∨ s.bad = true) : s.endOfLine = s.raise .malformedFrame := by
  rcases s.endOfLine_cases with ⟨hlt, -⟩ | ⟨-, -, he⟩ | ⟨-, hgood, -⟩
  · exact absurd hle (Nat.not_le.2 hlt)
  · exact he
  · simp [State.malformed_true.2 hbad] at hgood

theorem State.endOfLine_of_wellFormed {s : State} (hle : s.nchars ≤ 2 * s.cfg.maxBytes) (hpos : s.nchars ≠ 0)
    (heven : s.nchars % 2 = 0) (hgood : s.bad = false) : s.endOfLine = s.enterCheck := by
  rcases s.endOfLine_cases with ⟨hlt, -⟩ | ⟨-, hbad, -⟩ | ⟨-, -, he⟩
  · exact absurd hle (Nat.not_le.2 hlt)
  · simp [State.malformed_false.2 ⟨hpos, heven, hgood⟩] at hbad
  · exact he

theorem exec_recvLf_recv {s : State} (hp : s.phase = .recv) :
    exec .recvLf s = .next (s.endOfLine.take (.char charLF)) :=
  if_pos (State.recvEnabled_of_recv hp)

theorem exec_recvEof_recv_of_zero {s : State} (hp : s.phase = .recv) (hz : s.nchars = 0) :
    exec .recvEof s = .next ((s.raise .inputUnavailable).take .eof) :=
  (if_pos (State.recvEnabled_of_recv hp)).trans (if_pos hz)

theorem exec_recvEof_recv_of_ne_zero {s : State} (hp : s.phase = .recv) (hn : s.nchars ≠ 0) :
    exec .recvEof s = .next (s.endOfLine.take .eof) :=
  (if_pos (State.recvEnabled_of_recv hp)).trans (if_neg hn)

/-- A line end leaves RECV. -/
theorem State.endOfLine_inReady (s : State) : s.endOfLine.inReady = false := by
  rcases s.endOfLine_status with ⟨hp, -⟩ | ⟨hp, -⟩ <;> rw [State.inReady, hp] <;> rfl

/-- Settles O28, by the three outcomes of the end of a line. -/
theorem recvLfEffect : Obligations.RecvLfEffect := by
  unfold Obligations.RecvLfEffect
  refine ⟨rfl, fun s hp => ⟨s.taken ++ [.char charLF], fun hlt => ?_, fun hle hbad => ?_,
    fun hle hpos heven hgood => ?_⟩⟩
  · rw [exec_recvLf_recv hp, State.endOfLine_of_overLimit hlt]
    rfl
  · rw [exec_recvLf_recv hp, State.endOfLine_of_malformed hle hbad]
    rfl
  · rw [exec_recvLf_recv hp, State.endOfLine_of_wellFormed hle hpos heven hgood]
    rfl

/-- Settles O29: no character at all, or the three outcomes of the end of a line. -/
theorem recvEofEffect : Obligations.RecvEofEffect := by
  unfold Obligations.RecvEofEffect
  refine ⟨decode_sym_eof, fun s t hp h => ?_, fun s hp => ⟨s.taken ++ [.eof], fun hz => ?_, fun hlt => ?_,
    fun hle hpos hbad => ?_, fun hle hpos heven hgood => ?_⟩⟩
  · rw [exec_recvLf_recv hp] at h
    cases h
    exact s.endOfLine_inReady
  · exact exec_recvEof_recv_of_zero hp hz
  · rw [exec_recvEof_recv_of_ne_zero hp (Nat.ne_zero_of_lt hlt), State.endOfLine_of_overLimit hlt]
    rfl
  · rw [exec_recvEof_recv_of_ne_zero hp hpos, State.endOfLine_of_malformed hle (.inr hbad)]
    rfl
  · rw [exec_recvEof_recv_of_ne_zero hp hpos, State.endOfLine_of_wellFormed hle hpos heven hgood]
    rfl

end Sys2Proof.Machine
end

section
/-! SUPPORT. Runs of several edges, and the phase CHECK (spec/41_frame_decoder.md R87, R88, R93): what its three
operations do when they are enabled, and the absorption of a whole frame (spec/40_crc_engine.md R67, R68). -/

namespace Sys2Proof.Machine

open Sys2Proof

/-! ## Runs and coming edges -/

/-- A run goes on from where its first edges lead. -/
theorem Core.run_add_next {m n : Nat} {s t : State} (h : Host.Core.run Sys2Proof.core m s = .next t) :
    Host.Core.run Sys2Proof.core (m + n) s = Host.Core.run Sys2Proof.core n t := by
  induction m generalizing s with
  | zero =>
    cases h
    rw [Nat.zero_add]
  | succ m ih =>
    cases hs : Sys2Proof.core.step s with
    | next u =>
      rw [Core.run_succ_next hs] at h
      rw [Nat.add_right_comm, Core.run_succ_next hs, ih h]
    | fault f => simp [Host.Core.run, hs] at h
    | refused r => simp [Host.Core.run, hs] at h

theorem Core.run_one (s : State) : Host.Core.run Sys2Proof.core 1 s = step s := by
  have hstep : Sys2Proof.core.step s = step s := rfl
  simp only [Host.Core.run, hstep]
  cases step s <;> rfl

/-- A run peels off its last step. -/
theorem Core.run_succ_of_run {n : Nat} {s t : State} (h : Host.Core.run Sys2Proof.core n s = .next t) :
    Host.Core.run Sys2Proof.core (n + 1) s = step t := by
  rw [Core.run_add_next h, Core.run_one]

theorem State.pins_of_edges {s : State} {p : Pins} {rest : List Pins} (h : s.edges = p :: rest) : s.pins = p := by
  rw [State.pins, h, List.headD_cons]

/-! ## The operations of CHECK -/

theorem exec_checkAbsorb_enabled {s : State} {b : Byte} (hp : s.phase = .check) (hz : s.bitcnt = 0)
    (hlt : s.idx < s.len) (hread : s.memRead s.idx = .ok b) : exec .checkAbsorb s = .next (s.absorbNext b) := by
  have henabled : s.absorbEnabled = true := by simp [State.absorbEnabled, hp, State.engBusy_false.2 hz, hlt]
  have hbyte : s.byteAtIdx = .ok b := hread
  simp only [exec, execCheckAbsorb, henabled, ↓reduceIte, hbyte, orFault_ok]

theorem exec_checkBitstep_enabled {s : State} (hp : s.phase = .check) (hn : s.bitcnt ≠ 0) :
    exec .checkBitstep s = .next s.engBitstep := by
  have henabled : s.bitstepEnabled = true := by simp [State.bitstepEnabled, hp, State.engBusy_true.2 hn]
  exact if_pos henabled

theorem State.trailer_of_len_ne_zero {s : State} (h : s.len ≠ 0) : s.trailer = s.memRead (s.len - 1) :=
  if_neg h

theorem exec_checkVerify_enabled {s : State} {t : Byte} (hp : s.phase = .check) (hz : s.bitcnt = 0)
    (hidx : s.idx = s.len) (htrailer : s.trailer = .ok t) :
    exec .checkVerify s = if s.crc = t then .next s.accept else .next (s.raise .integrityMismatch) := by
  have henabled : s.verifyEnabled = true := by
    simp [State.verifyEnabled, State.atLen, hp, State.engBusy_false.2 hz, hidx]
  simp only [exec, execCheckVerify, henabled, ↓reduceIte, htrailer, orFault_ok]

/-- Settles O31, by what CHECK.ABSORB does when it is enabled and its cell is readable. -/
theorem checkAbsorbEffect : Obligations.CheckAbsorbEffect := by
  unfold Obligations.CheckAbsorbEffect
  exact ⟨rfl, fun s b hp hz hlt hread => exec_checkAbsorb_enabled hp hz hlt hread⟩

/-! ## The edges of CHECK -/

section
variable {s : State} (hb : s.block = .frameChecker) (hp : s.phase = .check)
include hb hp

theorem step_checkAbsorb {b : Byte} (hr : s.pins.rst = false) (hz : s.bitcnt = 0) (hlt : s.idx < s.len)
    (hread : s.memRead s.idx = .ok b) : step s = .next (s.advance.absorbNext b) := by
  have hat : s.atLen = false := by simpa [State.atLen] using hlt.ne
  rw [step_check s hb hp hr, State.engBusy_false.2 hz, hat]
  exact exec_checkAbsorb_enabled (s := s.advance) hp hz hlt hread

theorem step_checkBitstep (hr : s.pins.rst = false) (hn : s.bitcnt ≠ 0) : step s = .next s.advance.engBitstep := by
  rw [step_check s hb hp hr, State.engBusy_true.2 hn]
  exact exec_checkBitstep_enabled (s := s.advance) hp hn

theorem step_checkVerify {t : Byte} (hr : s.pins.rst = false) (hz : s.bitcnt = 0) (hidx : s.idx = s.len)
    (htrailer : s.trailer = .ok t) :
    step s = if s.crc = t then .next s.advance.accept else .next (s.advance.raise .integrityMismatch) := by
  have hat : s.atLen = true := by simpa [State.atLen] using hidx
  rw [step_check s hb hp hr, State.engBusy_false.2 hz, hat]
  exact exec_checkVerify_enabled (s := s.advance) hp hz hidx htrailer

end

/-- R93: the bit steps owed, one an edge. -/
theorem run_checkBitsteps {s : State} {steps rest : List Pins} (hb : s.block = .frameChecker) (hp : s.phase = .check)
    (hr : ∀ p ∈ steps, p.rst = false) (hcnt : s.bitcnt.toNat = steps.length) (hedges : s.edges = steps ++ rest) :
    Host.Core.run Sys2Proof.core steps.length s =
      .next { s with crc := bitsteps steps.length s.crc, bitcnt := 0, edges := rest } := by
  induction steps generalizing s with
  | nil =>
    have hz : s.bitcnt = 0 := BitVec.eq_of_toNat_eq hcnt
    have hrest : s.edges = rest := hedges
    rw [← hz, ← hrest]
    rfl
  | cons p steps ih =>
    have hpin : s.pins = p := State.pins_of_edges hedges
    have hn : s.bitcnt ≠ 0 := fun h => by simp [h] at hcnt
    have hstep := step_checkBitstep hb hp (hpin ▸ hr p List.mem_cons_self) hn
    have hcnt' : (s.bitcnt - 1).toNat = steps.length := by
      rw [List.length_cons] at hcnt
      bv_omega
    rw [List.length_cons, Core.run_succ_next hstep]
    exact ih (s := s.advance.engBitstep) hb hp (fun q hq => hr q (List.mem_cons_of_mem p hq)) hcnt' (by simp [hedges])

/-- R67: a byte takes one edge to absorb and eight bit steps, and leaves the checksum one byte further. -/
theorem run_checkAbsorbByte {s : State} {b : Byte} {nine rest : List Pins} (hb : s.block = .frameChecker)
    (hp : s.phase = .check) (hz : s.bitcnt = 0) (hlt : s.idx < s.len) (hread : s.memRead s.idx = .ok b)
    (hnine : nine.length = 9) (hr : ∀ p ∈ nine, p.rst = false) (hedges : s.edges = nine ++ rest) :
    Host.Core.run Sys2Proof.core 9 s =
      .next { s with crc := crcByte s.crc b, bitcnt := 0, idx := s.idx + 1, edges := rest } := by
  obtain ⟨p, eight, rfl⟩ := List.exists_cons_of_length_eq_add_one hnine
  have height : eight.length = 8 := Nat.succ.inj hnine
  have hpin : s.pins = p := State.pins_of_edges hedges
  have hstep := step_checkAbsorb hb hp (hpin ▸ hr p List.mem_cons_self) hz hlt hread
  have hrun := run_checkBitsteps (s := s.advance.absorbNext b) (steps := eight) (rest := rest) hb hp
    (fun q hq => hr q (List.mem_cons_of_mem p hq)) height.symm (by simp [hedges])
  rw [height] at hrun
  exact (Core.run_succ_next hstep).trans hrun

/-- R68: bytes that stand at `idx` onwards are absorbed in order, nine edges each. -/
theorem run_checkAbsorbBytes {s : State} {bytes : List Byte} {edges rest : List Pins} (hb : s.block = .frameChecker)
    (hp : s.phase = .check) (hz : s.bitcnt = 0) (hlen : s.idx + bytes.length ≤ s.len)
    (hread : ∀ i b, bytes[i]? = some b → s.memRead (s.idx + i) = .ok b)
    (hcount : edges.length = 9 * bytes.length) (hr : ∀ p ∈ edges, p.rst = false) (hedges : s.edges = edges ++ rest) :
    Host.Core.run Sys2Proof.core (9 * bytes.length) s =
      .next { s with crc := bytes.foldl crcByte s.crc, bitcnt := 0, idx := s.idx + bytes.length, edges := rest } := by
  induction bytes generalizing s edges with
  | nil =>
    have hrest : s.edges = rest := by simpa [List.length_eq_zero_iff.1 hcount] using hedges
    rw [← hz, ← hrest]
    rfl
  | cons b bytes ih =>
    rw [List.length_cons] at hlen hcount
    have hnine := run_checkAbsorbByte (nine := edges.take 9) (rest := edges.drop 9 ++ rest) hb hp hz (by omega)
      (hread 0 b rfl) (by rw [List.length_take]; omega) (fun p hmem => hr p (List.mem_of_mem_take hmem))
      (by rw [hedges, ← List.append_assoc, List.take_append_drop])
    have hread' : ∀ i c, bytes[i]? = some c → s.memRead (s.idx + 1 + i) = .ok c := fun i c hc => by
      rw [Nat.add_assoc, Nat.add_comm 1]
      exact hread (i + 1) c hc
    have hlen' : s.idx + 1 + bytes.length ≤ s.len := by omega
    have hbytes := ih
      (s := { s with crc := crcByte s.crc b, bitcnt := 0, idx := s.idx + 1, edges := edges.drop 9 ++ rest })
      (edges := edges.drop 9) hb hp rfl hlen' hread' (by rw [List.length_drop]; omega)
      (fun p hmem => hr p (List.mem_of_mem_drop hmem)) rfl
    rw [List.length_cons, Nat.mul_succ, Nat.add_comm, Core.run_add_next hnine, hbytes, List.foldl_cons]
    simp only [Nat.add_assoc, Nat.add_comm 1]

/-- R67, R68: a frame in the buffer, absorbed from CHECK's start, leaves its checksum. -/
theorem run_checkFrame {s : State} {bytes : List Byte} {edges rest : List Pins} (hb : s.block = .frameChecker)
    (hp : s.phase = .check) (hcrc : s.crc = 0x00) (hz : s.bitcnt = 0) (hidx : s.idx = 0) (hlen : s.len = bytes.length)
    (hmax : bytes.length ≤ s.cfg.maxBytes) (hholds : s.holds bytes) (hcount : edges.length = 9 * bytes.length)
    (hr : ∀ p ∈ edges, p.rst = false)
    (hedges : s.edges = edges ++ rest) :
    Host.Core.run Sys2Proof.core (9 * bytes.length) s =
      .next { s with crc := crc8 bytes, idx := bytes.length, edges := rest } := by
  have hread : ∀ i b, bytes[i]? = some b → s.memRead (s.idx + i) = .ok b := by
    intro i b hib
    rw [hidx, Nat.zero_add]
    exact State.memRead_ok.2 ⟨(List.getElem?_eq_some_iff.1 hib).1.trans_le hmax, hholds i b hib⟩
  have hfits : s.idx + bytes.length ≤ s.len := by rw [hidx, hlen, Nat.zero_add]
  rw [run_checkAbsorbBytes hb hp hz hfits hread hcount hr hedges, hcrc, hidx, Nat.zero_add, ← hz]
  rfl

/-- R40: the trailer of a frame in the buffer is its last byte. -/
theorem State.trailer_of_holds {s : State} {bytes : List Byte} (hne : bytes ≠ []) (hlen : s.len = bytes.length)
    (hmax : bytes.length ≤ s.cfg.maxBytes) (hholds : s.holds bytes) : s.trailer = .ok (bytes.getLast hne) := by
  have hpos : 0 < bytes.length := List.length_pos_iff.2 hne
  have hlast : bytes[bytes.length - 1]? = some (bytes.getLast hne) := by
    rw [← List.getLast?_eq_getElem?, List.getLast?_eq_some_getLast hne]
  rw [State.trailer_of_len_ne_zero (by omega), hlen]
  exact State.memRead_ok.2 ⟨by omega, hholds _ _ hlast⟩

/-- R78: acceptance compares the checksum with the last byte. -/
theorem acceptFrame_iff {bytes : List Byte} (hne : bytes ≠ []) :
    acceptFrame bytes = true ↔ crc8 bytes = bytes.getLast hne := by
  rw [acceptFrame, beq_iff_eq, List.getLast?_eq_some_getLast hne, Option.some_inj, eq_comm]

/-- Settles O34: the frame absorbed leaves its checksum in `crc`, which the next edge compares with the trailer. -/
theorem checkVerifyEffect : Obligations.CheckVerifyEffect := by
  unfold Obligations.CheckVerifyEffect
  refine ⟨rfl, fun s t hp hz hidx hpos hread => ?_, ?_⟩
  · have hexec := exec_checkVerify_enabled hp hz hidx ((State.trailer_of_len_ne_zero hpos).trans hread)
    exact ⟨fun hc => hexec.trans (if_pos hc), fun hc => hexec.trans (if_neg hc)⟩
  · intro s bytes first last rest hb hp hcrc hz hidx hne hlen hmax hholds hcount hr hrlast hedges
    have hframe := run_checkFrame hb hp hcrc hz hidx hlen hmax hholds hcount hr hedges
    have hverify := step_checkVerify
      (s := { s with crc := crc8 bytes, idx := bytes.length, edges := last :: rest }) hb hp hrlast hz hlen.symm
      (State.trailer_of_holds hne hlen hmax hholds)
    have hrun := (Core.run_succ_of_run hframe).trans hverify
    refine ⟨hframe, fun haccept => hrun.trans (if_pos ((acceptFrame_iff hne).1 haccept)), fun hreject => ?_⟩
    exact hrun.trans (if_neg (mt (acceptFrame_iff hne).2 (by simp [hreject])))

end Sys2Proof.Machine
end

section
/-! SUPPORT. The phase RENDER (spec/41_frame_decoder.md R89 to R92): what its two operations do and offer when they are
enabled, and the bit characters of a sequence of bytes taken one an edge. -/

namespace Sys2Proof.Machine

open Sys2Proof

/-! ## The operations of RENDER -/

theorem State.nextBit_eq (s : State) :
    s.nextBit =
      { s with
        idx := if s.bitidx = 0 then s.idx + 1 else s.idx
        bitidx := if s.bitidx = 0 then 7 else s.bitidx - 1 } := by
  unfold State.nextBit
  split <;> rfl

theorem State.outChar_of_bit {s : State} {b : Byte} (hp : s.phase = .render) (hlt : s.idx < s.len)
    (hread : s.memRead s.idx = .ok b) : s.outChar = some (bitChar (s.bitOf b)) := by
  simp [State.outChar, State.outValid, State.atLen, hp, hlt.ne, State.byteAtIdx, hread, Except.toOption]

theorem exec_renderBit_enabled {s : State} {b : Byte} (hp : s.phase = .render) (hlt : s.idx < s.len)
    (hread : s.memRead s.idx = .ok b) : exec .renderBit s = .next (s.nextBit.send (bitChar (s.bitOf b))) := by
  have henabled : s.bitEnabled = true := by simp [State.bitEnabled, hp, hlt]
  have hbyte : s.byteAtIdx = .ok b := hread
  simp only [exec, execRenderBit, henabled, ↓reduceIte, hbyte, orFault_ok]

theorem State.outChar_of_newline {s : State} (hp : s.phase = .render) (hidx : s.idx = s.len) :
    s.outChar = some charLF := by
  simp [State.outChar, State.outValid, State.atLen, hp, hidx]

theorem exec_renderLf_enabled {s : State} (hp : s.phase = .render) (hidx : s.idx = s.len) :
    exec .renderLf s = .next (s.finishOk.send charLF) := by
  have henabled : s.newlineEnabled = true := by simp [State.newlineEnabled, State.atLen, hp, hidx]
  exact if_pos henabled

theorem step_renderBit {s : State} {b : Byte} (hb : s.block = .frameChecker) (hp : s.phase = .render)
    (hr : s.pins.rst = false) (hready : s.pins.outReady = true) (hlt : s.idx < s.len)
    (hread : s.memRead s.idx = .ok b) : step s = .next (s.advance.nextBit.send (bitChar (s.bitOf b))) := by
  have hat : s.atLen = false := by simpa [State.atLen] using hlt.ne
  rw [step_render s hb hp hr, hready, hat]
  exact exec_renderBit_enabled (s := s.advance) hp hlt hread

/-- Settles O36, by what RENDER.LF offers and does when it is enabled. -/
theorem renderLfEffect : Obligations.RenderLfEffect := by
  unfold Obligations.RenderLfEffect
  exact ⟨rfl, rfl, fun s hp hidx =>
    ⟨State.outChar_of_newline hp hidx, s.sent ++ [charLF], exec_renderLf_enabled hp hidx⟩⟩

/-! ## The bit characters of a sequence of bytes -/

theorem flatMap_bits8_length (bytes : List Byte) : (bytes.flatMap bits8).length = 8 * bytes.length := by
  simp [List.length_flatMap, Nat.mul_comm]

/-- R79, R90: the character at position `j` is that of bit `7 - j % 8` of byte `j / 8`. -/
theorem flatMap_bits8_getElem? {bytes : List Byte} {j : Nat} {b : Byte} (h : bytes[j / 8]? = some b) :
    (bytes.flatMap bits8)[j]? = some (bitChar (b.getLsbD (7 - j % 8))) := by
  induction bytes generalizing j with
  | nil => simp at h
  | cons c bytes ih =>
    rw [List.flatMap_cons]
    rcases Nat.lt_or_ge j 8 with hlt | hge
    · rw [Nat.div_eq_of_lt hlt] at h
      obtain rfl : c = b := Option.some.inj h
      rw [List.getElem?_append_left hlt, bits8_getElem? c hlt, Nat.mod_eq_of_lt hlt]
    · have hdiv : j / 8 = (j - 8) / 8 + 1 := by omega
      have hmod : j % 8 = (j - 8) % 8 := by omega
      rw [hdiv, List.getElem?_cons_succ] at h
      rw [List.getElem?_append_right hge, bits8_length, ih h, hmod]

/-- R21, R89: `bitidx` after `j` transfers from a byte's bit 7. -/
def bitidxAfter (j : Nat) : BitVec 3 := BitVec.ofNat 3 (7 - j % 8)

theorem bitidxAfter_toNat (j : Nat) : (bitidxAfter j).toNat = 7 - j % 8 := by
  rw [bitidxAfter, BitVec.toNat_ofNat]
  omega

theorem bitidxAfter_eq_zero_iff (j : Nat) : bitidxAfter j = 0 ↔ j % 8 = 7 := by
  rw [← BitVec.toNat_inj, bitidxAfter_toNat]
  change 7 - j % 8 = 0 ↔ j % 8 = 7
  omega

/-- R89: counted down from 7, and reloaded after 0. -/
theorem bitidxAfter_succ (j : Nat) :
    bitidxAfter (j + 1) = if bitidxAfter j = 0 then 7 else bitidxAfter j - 1 := by
  have hall : ∀ r < 8, BitVec.ofNat 3 (7 - (r + 1) % 8) =
      if BitVec.ofNat 3 (7 - r) = 0 then 7 else BitVec.ofNat 3 (7 - r) - 1 := by decide
  rw [bitidxAfter, bitidxAfter, ← Nat.mod_add_mod j 8 1]
  exact hall (j % 8) (Nat.mod_lt j (by decide))

/-- The state of RENDER after `j` transfers from a byte's bit 7, `bytes` standing at `idx` onwards. -/
def State.afterBits (s : State) (bytes : List Byte) (j : Nat) : State :=
  { s with
    idx := s.idx + j / 8
    bitidx := bitidxAfter j
    edges := s.edges.drop j
    sent := s.sent ++ (bytes.flatMap bits8).take j }

theorem State.afterBits_zero (s : State) (bytes : List Byte) (hbit : s.bitidx = 7) : s.afterBits bytes 0 = s := by
  have hstart : bitidxAfter 0 = s.bitidx := hbit.symm
  rw [State.afterBits, hstart, List.take_zero, List.append_nil]
  rfl

theorem State.afterBits_bitOf (s : State) (bytes : List Byte) (j : Nat) (b : Byte) :
    (s.afterBits bytes j).bitOf b = b.getLsbD (7 - j % 8) := by
  rw [State.bitOf, State.afterBits, bitidxAfter_toNat]

/-- One transfer more. -/
theorem State.afterBits_succ (s : State) {bytes : List Byte} {j : Nat} {b : Byte} (h : bytes[j / 8]? = some b) :
    (s.afterBits bytes j).advance.nextBit.send (bitChar ((s.afterBits bytes j).bitOf b)) =
      s.afterBits bytes (j + 1) := by
  have hidx : (if bitidxAfter j = 0 then s.idx + j / 8 + 1 else s.idx + j / 8) = s.idx + (j + 1) / 8 := by
    rw [if_congr (bitidxAfter_eq_zero_iff j) rfl rfl]
    split <;> omega
  have hsent : s.sent ++ (bytes.flatMap bits8).take (j + 1) =
      s.sent ++ (bytes.flatMap bits8).take j ++ [bitChar (b.getLsbD (7 - j % 8))] := by
    rw [List.take_add_one, flatMap_bits8_getElem? h, List.append_assoc]
    rfl
  rw [State.afterBits_bitOf, State.nextBit_eq]
  simp only [State.send, State.advance, State.afterBits, bitidxAfter_succ, hidx, hsent, List.tail_drop]

section
variable {s : State} {bytes : List Byte}
  (hb : s.block = .frameChecker) (hp : s.phase = .render) (hlen : s.idx + bytes.length ≤ s.len)
  (hread : ∀ i b, bytes[i]? = some b → s.memRead (s.idx + i) = .ok b)
include hlen hread

/-- The transfer `j` finds its byte in the buffer. -/
theorem State.afterBits_byte {j : Nat} (hj : j < 8 * bytes.length) :
    ∃ b, bytes[j / 8]? = some b ∧ (s.afterBits bytes j).idx < (s.afterBits bytes j).len ∧
      (s.afterBits bytes j).memRead (s.afterBits bytes j).idx = .ok b := by
  have hlt : j / 8 < bytes.length := by omega
  have hidx : s.idx + j / 8 < s.len := by omega
  exact ⟨bytes[j / 8], List.getElem?_eq_getElem hlt, hidx, hread _ _ (List.getElem?_eq_getElem hlt)⟩

include hp

/-- R89: the character offered at transfer `j` is character `j` of the bit characters of the bytes. -/
theorem State.afterBits_outChar {j : Nat} (hj : j < 8 * bytes.length) :
    (s.afterBits bytes j).outChar = (bytes.flatMap bits8)[j]? := by
  obtain ⟨b, hbyte, hlt, hmem⟩ := State.afterBits_byte hlen hread hj
  rw [State.outChar_of_bit (s := s.afterBits bytes j) hp hlt hmem, State.afterBits_bitOf, flatMap_bits8_getElem? hbyte]

include hb

/-- R89: with `out_ready` = 1 at every edge, a bit character is taken at each. -/
theorem run_renderBits (hbit : s.bitidx = 7) {taking rest : List Pins} (hcount : taking.length = 8 * bytes.length)
    (hpins : ∀ p ∈ taking, p.rst = false ∧ p.outReady = true) (hedges : s.edges = taking ++ rest) {j : Nat}
    (hj : j ≤ 8 * bytes.length) : Host.Core.run Sys2Proof.core j s = .next (s.afterBits bytes j) := by
  induction j with
  | zero => rw [s.afterBits_zero bytes hbit, Core.run_zero]
  | succ j ih =>
    obtain ⟨b, hbyte, hlt, hmem⟩ := State.afterBits_byte hlen hread hj
    have hpin : (s.afterBits bytes j).pins = taking[j]'(hcount ▸ hj) := by
      rw [State.pins, State.afterBits, hedges, List.drop_append_of_le_length (hcount ▸ Nat.le_of_lt hj),
        List.drop_eq_getElem_cons (hcount ▸ hj), List.cons_append, List.headD_cons]
    obtain ⟨hr, hready⟩ := hpins _ (List.getElem_mem (hcount ▸ hj))
    rw [← hpin] at hr hready
    have hstep := step_renderBit (s := s.afterBits bytes j) hb hp hr hready hlt hmem
    rw [State.afterBits_succ s hbyte] at hstep
    exact (Core.run_succ_of_run (ih (Nat.le_of_lt hj))).trans hstep

end

/-- After the last bit of the last byte, `idx` stands behind the bytes and the record holds all their characters. -/
theorem State.afterBits_all {s : State} {bytes : List Byte} {taking rest : List Pins} (hbit : s.bitidx = 7)
    (hcount : taking.length = 8 * bytes.length) (hedges : s.edges = taking ++ rest) :
    s.afterBits bytes (8 * bytes.length) =
      { s with idx := s.idx + bytes.length, edges := rest, sent := s.sent ++ bytes.flatMap bits8 } := by
  have hall : (bytes.flatMap bits8).take (8 * bytes.length) = bytes.flatMap bits8 :=
    List.take_of_length_le (flatMap_bits8_length bytes).le
  have hdrop : (taking ++ rest).drop (8 * bytes.length) = rest := by rw [← hcount, List.drop_left]
  have hend : bitidxAfter (8 * bytes.length) = s.bitidx := by rw [bitidxAfter, Nat.mul_mod_right, hbit]; rfl
  rw [State.afterBits, hall, hedges, hdrop, hend, Nat.mul_div_cancel_left _ (by decide)]

/-- Settles O35: the states after each transfer offer the bit characters of the bytes in order. -/
theorem renderBitEffect : Obligations.RenderBitEffect := by
  unfold Obligations.RenderBitEffect
  refine ⟨rfl, rfl, fun s b hp hlt hread =>
    ⟨State.outChar_of_bit hp hlt hread, s.sent ++ [bitChar (s.bitOf b)], ?_⟩, ?_⟩
  · rw [exec_renderBit_enabled hp hlt hread, s.nextBit_eq]
    rfl
  · intro s bytes taking rest hb hp hlen hbit hread hcount hpins hedges
    refine ⟨fun j hj => ⟨s.afterBits bytes j, ?_, ?_, State.afterBits_outChar hp hlen hread hj⟩,
      s.sent ++ bytes.flatMap bits8, ?_⟩
    · exact run_renderBits hb hp hlen hread hbit hcount hpins hedges (Nat.le_of_lt hj)
    · simp [State.outValid, State.afterBits, hp]
    · rw [run_renderBits hb hp hlen hread hbit hcount hpins hedges (Nat.le_refl _),
        State.afterBits_all hbit hcount hedges]

end Sys2Proof.Machine
end

section
/-! SUPPORT. The transition relation of `phase` (spec/41_frame_decoder.md R81, R94): when an edge can leave a phase, and
where the edges that leave one lead. -/

namespace Sys2Proof.Machine

open Sys2Proof

/-- R94: no operation is selected in DONE. -/
theorem fetch_done {s : State} (hb : s.block = .frameChecker) (hp : s.phase = .done) : fetch s = none := by
  rw [fetch, hb]
  simp only [fetchFrameChecker, hp]

/-- Settles O38: the ports are functions of the phase, and an edge at which nothing is selected is only used up. -/
theorem doneIsFinal : Obligations.DoneIsFinal := by
  unfold Obligations.DoneIsFinal
  intro s hb hp
  have hready : s.inReady = false := by rw [State.inReady, hp]; rfl
  have hvalid : s.outValid = false := by rw [State.outValid, hp]; rfl
  exact ⟨hready, hvalid, by rw [State.done, hp]; rfl, by simp [State.inTransfer, hready],
    by simp [State.outTransfer, hvalid], fetch_done hb hp, step_done s hb hp⟩

/-! ## When a phase is left -/

/-- R81: the condition under which an edge without reset leaves the phase. -/
def State.LeavesPhase (s : State) : Prop :=
  match s.phase with
  | .recv => s.pins.inValid = true ∧ (s.pins.inEof = true ∨ s.pins.inChar = charLF)
  | .check => s.bitcnt = 0 ∧ s.idx = s.len
  | .render => s.pins.outReady = true ∧ s.idx = s.len
  | .done => False

theorem State.leavesPhase_recv {s : State} (hp : s.phase = .recv) :
    s.LeavesPhase ↔ s.pins.inValid = true ∧ (s.pins.inEof = true ∨ s.pins.inChar = charLF) := by
  simp only [State.LeavesPhase, hp]

theorem State.leavesPhase_check {s : State} (hp : s.phase = .check) :
    s.LeavesPhase ↔ s.bitcnt = 0 ∧ s.idx = s.len := by
  simp only [State.LeavesPhase, hp]

theorem State.leavesPhase_render {s : State} (hp : s.phase = .render) :
    s.LeavesPhase ↔ s.pins.outReady = true ∧ s.idx = s.len := by
  simp only [State.LeavesPhase, hp]

theorem State.not_leavesPhase_done {s : State} (hp : s.phase = .done) : ¬s.LeavesPhase := by
  simp only [State.LeavesPhase, hp, not_false_eq_true]

/-- R81: any other edge stays in the phase. -/
theorem step_phase {s t : State} (hr : s.pins.rst = false) (h : step s = .next t) (hstay : ¬s.LeavesPhase) :
    t.phase = s.phase := by
  cases step_next h with
  | reset hrst => simp [hr] at hrst
  | engClr | engBitstep | engAbsorb | engIdle | otherChar | absorb | bitstep | waiting => rfl
  | bit => simp
  | hexDigit v u _ _ _ _ _ _ _ hu =>
    have hphase : u.phase = s.phase := by rw [State.storeDigit_frame hu, State.advance_phase]
    exact hphase
  | lineFeed _ _ hp hv _ hc => exact absurd ((State.leavesPhase_recv hp).2 ⟨hv, .inr hc⟩) hstay
  | noInput _ _ hp hv he | endOfInput _ _ hp hv he =>
    exact absurd ((State.leavesPhase_recv hp).2 ⟨hv, .inl he⟩) hstay
  | accept _ _ hp hz hidx | reject _ _ _ hp hz hidx =>
    exact absurd ((State.leavesPhase_check hp).2 ⟨hz, hidx⟩) hstay
  | newline _ _ hp ho hidx => exact absurd ((State.leavesPhase_render hp).2 ⟨ho, hidx⟩) hstay

/-! ## Where the edges that leave a phase lead -/

section
variable {s : State} (hb : s.block = .frameChecker) (hr : s.pins.rst = false)
include hb hr

/-- R85: the end of input before any character. -/
theorem step_recvNoInput (hp : s.phase = .recv) (hv : s.pins.inValid = true) (he : s.pins.inEof = true)
    (hz : s.nchars = 0) : step s = .next ((s.advance.raise .inputUnavailable).take .eof) := by
  rw [step_recv s hb hp hr, if_pos hv, if_pos he]
  exact exec_recvEof_recv_of_zero (s := s.advance) hp hz

/-- R84, R85: an LF, or the end of input after a character, ends the line. -/
theorem step_recvLineEnd (hp : s.phase = .recv) (hv : s.pins.inValid = true)
    (hend : (s.pins.inEof = false ∧ s.pins.inChar = charLF) ∨ (s.pins.inEof = true ∧ s.nchars ≠ 0)) :
    ∃ x, step s = .next (s.advance.endOfLine.take x) := by
  rw [step_recv s hb hp hr, if_pos hv]
  rcases hend with ⟨he, hc⟩ | ⟨he, hn⟩
  · rw [he, if_neg Bool.false_ne_true, (decodeChar_eq_recvLf_iff _).2 hc]
    exact ⟨_, exec_recvLf_recv (s := s.advance) hp⟩
  · rw [if_pos he]
    exact ⟨_, exec_recvEof_recv_of_ne_zero (s := s.advance) hp hn⟩

/-- R92: the newline's transfer. -/
theorem step_renderLf (hp : s.phase = .render) (ho : s.pins.outReady = true) (hidx : s.idx = s.len) :
    step s = .next (s.advance.finishOk.send charLF) := by
  have hat : s.atLen = true := by simpa [State.atLen] using hidx
  rw [step_render s hb hp hr, if_pos ho, if_pos hat]
  exact exec_renderLf_enabled (s := s.advance) hp hidx

end

/-- R86: the phase and the status a line end leaves, by its three tests in their order. -/
theorem State.endOfLine_outcome (s : State) :
    (2 * s.cfg.maxBytes < s.nchars → s.endOfLine.phase = .done ∧ s.endOfLine.status = 3) ∧
    (s.nchars ≤ 2 * s.cfg.maxBytes → s.nchars = 0 ∨ s.nchars % 2 = 1 ∨ s.bad = true →
      s.endOfLine.phase = .done ∧ s.endOfLine.status = 2) ∧
    (s.nchars ≤ 2 * s.cfg.maxBytes → s.nchars ≠ 0 → s.nchars % 2 = 0 → s.bad = false →
      s.endOfLine.phase = .check) := by
  refine ⟨fun hlt => ?_, fun hle hbad => ?_, fun hle hpos heven hgood => ?_⟩
  · rw [State.endOfLine_of_overLimit hlt]
    exact ⟨rfl, rfl⟩
  · rw [State.endOfLine_of_malformed hle hbad]
    exact ⟨rfl, rfl⟩
  · rw [State.endOfLine_of_wellFormed hle hpos heven hgood]
    rfl

/-- Settles O39: an edge stays in its phase unless it meets the phase's leaving condition, and then the one operation
enabled gives the phase it leads to. -/
theorem phaseTransitions : Obligations.PhaseTransitions := by
  unfold Obligations.PhaseTransitions
  intro s t hb hr h
  refine ⟨fun hp => ⟨fun hv => ?_, fun _ he hc => ?_, fun hv he hz => ?_, fun hv hend => ?_⟩,
    fun hp => ⟨fun hstay => ?_, fun hz hidx b htrailer => ?_⟩, fun hp => ⟨fun hstay => ?_, fun ho hidx => ?_⟩,
    fun hp => ?_⟩
  · exact (step_phase hr h (by simp [State.leavesPhase_recv hp, hv])).trans hp
  · have hstay : ¬s.LeavesPhase := fun hleave => ((State.leavesPhase_recv hp).1 hleave).2.elim (by simp [he]) hc
    exact (step_phase hr h hstay).trans hp
  · rw [step_recvNoInput hb hr hp hv he hz] at h
    cases h
    exact ⟨rfl, rfl⟩
  · obtain ⟨x, hstep⟩ := step_recvLineEnd hb hr hp hv hend
    rw [hstep] at h
    cases h
    exact s.advance.endOfLine_outcome
  · exact (step_phase hr h (mt (State.leavesPhase_check hp).1 hstay)).trans hp
  · rw [step_checkVerify hb hp hr hz hidx htrailer] at h
    refine ⟨fun hc => ?_, fun hc => ?_⟩
    · rw [if_pos hc] at h
      cases h
      rfl
    · rw [if_neg hc] at h
      cases h
      exact ⟨rfl, rfl⟩
  · exact (step_phase hr h (mt (State.leavesPhase_render hp).1 hstay)).trans hp
  · rw [step_renderLf hb hr hp ho hidx] at h
    cases h
    exact ⟨rfl, rfl⟩
  · exact (step_phase hr h (State.not_leavesPhase_done hp)).trans hp

end Sys2Proof.Machine
end

section
/-! SUPPORT. The way an invocation ends in an error (spec/60_exceptions.md R104): what `raise` writes, and the ports in
the phase it moves to. -/

namespace Sys2Proof.Machine

open Sys2Proof

/-- R43: each of the three port bits tests `phase`, and in DONE only `done` is set. -/
theorem State.ports_of_done {s : State} (hp : s.phase = .done) :
    s.done = true ∧ s.inReady = false ∧ s.outValid = false := by
  refine ⟨?_, ?_, ?_⟩
  · rw [State.done, hp]; rfl
  · rw [State.inReady, hp]; rfl
  · rw [State.outValid, hp]; rfl

/-- Settles O30: the two writes and the four codes are the definitions' own, and the ports follow from the phase
`raise` leaves. -/
theorem raiseWritesStatusAndPhaseOnly : Obligations.RaiseWritesStatusAndPhaseOnly := by
  unfold Obligations.RaiseWritesStatusAndPhaseOnly
  have hwrites (s : State) (e : ErrorKind) : s.raise e = { s with status := e.code, phase := .done } := rfl
  exact ⟨hwrites, rfl, rfl, rfl, rfl, fun s e => State.ports_of_done (s.raise_phase e)⟩

end Sys2Proof.Machine
end

section
/-! SUPPORT. The hazards at the ports (spec/70_reset_and_hazards.md): what an edge with `rst` = 1 leaves (R116), and what
edges at which a host pauses leave unchanged (R118, R121, R124). -/

namespace Sys2Proof.Machine

open Sys2Proof

/-! ## The reset edge -/

/-- R115: the state after a reset edge is the start of an invocation, made of the build, the block and the edges to
come. -/
theorem step_reset_start {s : State} (hr : s.pins.rst = true) :
    step s = .next (State.start s.cfg s.block s.edges.tail) :=
  step_reset s hr

/-- Settles O2: the next state is the start of an invocation, whose registers are constants and whose other fields are
the three the two states share. -/
theorem resetEdgeSetsEveryRegister : Obligations.ResetEdgeSetsEveryRegister := by
  unfold Obligations.ResetEdgeSetsEveryRegister
  refine ⟨fun s hr => ?_, fun s s' hr hr' hcfg hblock hedges => ?_⟩
  · exact ⟨_, step_reset_start hr, rfl, rfl, rfl, rfl, rfl, rfl, rfl, rfl, rfl, Memory.lookup_nil, rfl, rfl, rfl⟩
  · rw [step_reset_start hr, step_reset_start hr', hcfg, hblock, hedges]

/-! ## Pausing hosts -/

/-- R118, R124: with the levels `p` the host that the phase waits for pauses. -/
def State.PausedBy (s : State) (p : Pins) : Prop :=
  (s.phase = .recv ∧ p.inValid = false) ∨ (s.phase = .render ∧ p.outReady = false)

/-- An edge at which the awaited host pauses is only used up. -/
theorem step_paused {s : State} (hb : s.block = .frameChecker) (hr : s.pins.rst = false) (h : s.PausedBy s.pins) :
    step s = .next s.advance := by
  rcases h with ⟨hp, hv⟩ | ⟨hp, ho⟩
  · simp [step_recv s hb hp hr, hv]
  · simp [step_render s hb hp hr, ho]

/-- The phase is kept at a pause, so the wait goes on edge after edge. -/
theorem run_paused {s : State} {pause rest : List Pins} (hb : s.block = .frameChecker) (hedges : s.edges = pause ++ rest)
    (hpins : ∀ p ∈ pause, p.rst = false ∧ s.PausedBy p) :
    Host.Core.run Sys2Proof.core pause.length s = .next { s with edges := rest } := by
  induction pause generalizing s with
  | nil =>
    obtain rfl : s.edges = rest := hedges
    exact Core.run_zero s
  | cons p pause ih =>
    have hpin : s.pins = p := State.pins_of_edges hedges
    obtain ⟨⟨hr, hpaused⟩, hlater⟩ := List.forall_mem_cons.1 hpins
    have hstep : step s = .next s.advance := step_paused hb (hpin ▸ hr) (hpin ▸ hpaused)
    have htail : s.advance.edges = pause ++ rest := congrArg List.tail hedges
    rw [List.length_cons, Core.run_succ_next hstep]
    exact ih (s := s.advance) hb htail hlater

/-- R46: the character offered is a function of the registers and the buffer, whatever the edges to come. -/
theorem State.outChar_of_edges (s : State) (later : List Pins) : ({ s with edges := later } : State).outChar = s.outChar :=
  rfl

/-- Settles O49: every edge of the pause is only used up, and the output signals do not look at the edges to come. -/
theorem pausingHostsChangeNothing : Obligations.PausingHostsChangeNothing := by
  unfold Obligations.PausingHostsChangeNothing
  intro s pause rest hb hedges hrst hpause
  have hpins : ∀ p ∈ pause, p.rst = false ∧ s.PausedBy p := fun p hp =>
    ⟨hrst p hp, hpause.imp (fun ⟨hphase, hv⟩ => ⟨hphase, hv p hp⟩) (fun ⟨hphase, ho⟩ => ⟨hphase, ho p hp⟩)⟩
  exact ⟨run_paused hb hedges hpins, s.outChar_of_edges rest, rfl⟩

end Sys2Proof.Machine
end

section
/-! SUPPORT. The decoder and the encoder (spec/30_encoding.md R48, R50, R54, R58): every operation is read back from its
encoding, and what is read is an operation of the format. -/

namespace Sys2Proof.Machine

open Sys2Proof

/-- The number of a condition word is decoded as that word. -/
theorem decode_state_toNat (w : StateWord) : decode .state w.toNat = decodeState w := by
  have hw : w.toNat < 2 ^ Format.state.width := w.isLt
  rw [decode, if_pos hw, BitVec.ofNat_toNat, BitVec.setWidth_eq]

/-- The well-formed operands of RECV.OTHER are the characters of its class. -/
theorem recvOther_wf_iff {c : Byte} : (Instr.recvOther c).wf = true ↔ isHexDigit c = false ∧ c ≠ charLF := by
  simp [Instr.wf]

/-- Settles O6: an operand is read back from the fields of its word, and the word of a row without one is evaluated. -/
theorem decodeOfEncodeIsIdentity : Obligations.DecodeOfEncodeIsIdentity := by
  unfold Obligations.DecodeOfEncodeIsIdentity
  intro i hwf
  cases i with
  | recvOther c =>
    have hchar : decodeChar c = .recvOther c := (decodeChar_eq_recvOther_iff c).2 (recvOther_wf_iff.1 hwf)
    calc decode .sym (symWordOf false c).toNat
      _ = .ok (decodeSym (symWordOf false c)) := decode_sym_toNat _
      _ = .ok (.recvOther c) := by rw [decodeSym_of, if_neg Bool.false_ne_true, hchar]
  | engAbsorb b =>
    calc decode .eng (engWordOf false false true b).toNat
      _ = .ok (decodeEng (engWordOf false false true b)) := decode_eng_toNat _
      _ = .ok (.engAbsorb b) := by rw [decodeEng_of]; rfl
  | _ => rfl

/-! ## What the decoder answers is an operation of the format -/

theorem hexRows_wf : ∀ r ∈ hexRows, r.2.2.wf = true ∧ (encode r.2.2).1 = .sym := by decide

theorem decodeSym_wf (w : SymWord) : (decodeSym w).wf = true ∧ (encode (decodeSym w)).1 = .sym := by
  cases he : symEof w with
  | true =>
    rw [decodeSym_of_symEof he]
    exact ⟨rfl, rfl⟩
  | false =>
    rw [decodeSym_of_not_symEof he]
    rcases decodeChar_class (symChar w) with ⟨-, -, r, hr, hop⟩ | ⟨-, -, hop⟩ | ⟨hdigit, hne, hop⟩ <;> rw [hop]
    · exact hexRows_wf r hr
    · exact ⟨rfl, rfl⟩
    · exact ⟨recvOther_wf_iff.2 ⟨hdigit, hne⟩, rfl⟩

theorem decodeEng_wf (w : EngWord) : (decodeEng w).wf = true ∧ (encode (decodeEng w)).1 = .eng := by
  unfold decodeEng
  split_ifs <;> exact ⟨rfl, rfl⟩

theorem decodeState_wf {w : StateWord} {i : Instr} (h : decodeState w = .ok i) :
    i.wf = true ∧ (encode i).1 = .state := by
  unfold decodeState at h
  split_ifs at h <;> cases h <;> exact ⟨rfl, rfl⟩

theorem decode_wf {f : Format} {w : Nat} {i : Instr} (h : decode f w = .ok i) : i.wf = true ∧ (encode i).1 = f := by
  unfold decode at h
  split_ifs at h with hw
  cases f with
  | sym => cases h; exact decodeSym_wf _
  | eng => cases h; exact decodeEng_wf _
  | state => exact decodeState_wf h

/-- Settles O7: what is read is well formed, so O6 reads it back from its canonical word. -/
theorem decodedOperationsAreWellFormed : Obligations.DecodedOperationsAreWellFormed := by
  unfold Obligations.DecodedOperationsAreWellFormed
  intro f w i h
  obtain ⟨hwf, hformat⟩ := decode_wf h
  exact ⟨hwf, hformat, hformat ▸ decodeOfEncodeIsIdentity i hwf⟩

/-! ## Words of the table -/

/-- Settles O5: each word is read bit by bit. -/
theorem tableWordsDecode : Obligations.TableWordsDecode := by
  unfold Obligations.TableWordsDecode
  exact ⟨rfl, rfl, rfl, rfl, rfl, rfl, rfl, rfl, rfl, rfl, rfl, rfl, rfl, rfl, rfl, rfl, rfl, rfl, rfl, rfl, rfl⟩

/-- A word that meets a pattern has the pattern's bit wherever the mask tests one. -/
theorem getLsbD_of_and_eq {n : Nat} {w mask pattern : BitVec n} (h : w &&& mask = pattern) {i : Nat}
    (hi : mask.getLsbD i = true) : w.getLsbD i = pattern.getLsbD i := by
  rw [← h, BitVec.getLsbD_and, hi, Bool.and_true]

theorem decodeEng_of_absorb {w : EngWord} (hc : w.getLsbD 9 = false) (hb : w.getLsbD 10 = false)
    (hv : w.getLsbD 8 = true) : decodeEng w = .engAbsorb (w.setWidth 8) := by
  simp only [decodeEng, engWordClear, engWordBusy, engWordValid, engWordByte, hc, hb, hv, Bool.false_eq_true,
    ↓reduceIte]

theorem decodeEng_of_idle {w : EngWord} (hc : w.getLsbD 9 = false) (hb : w.getLsbD 10 = false)
    (hv : w.getLsbD 8 = false) : decodeEng w = .engIdle := by
  simp only [decodeEng, engWordClear, engWordBusy, engWordValid, hc, hb, hv, Bool.false_eq_true, ↓reduceIte]

/-- The four patterns of the engine's selection word leave none out. -/
theorem engWord_patterns_cover : ∀ w : EngWord,
    w &&& 0x200 = 0x200 ∨ w &&& 0x600 = 0x400 ∨ w &&& 0x700 = 0x100 ∨ w &&& 0x700 = 0x000 := by decide +kernel

/-- Settles O9: a pattern of the engine's word fixes the bits that the priority tests; the sixteen condition words are
evaluated. -/
theorem selectionWordsFollowOpcodeMap : Obligations.SelectionWordsFollowOpcodeMap := by
  unfold Obligations.SelectionWordsFollowOpcodeMap
  refine ⟨fun w h => ?_, fun w h => ?_, fun w h => ?_, fun w h => ?_, engWord_patterns_cover, ?_⟩
  · exact decodeEng_of_clear (getLsbD_of_and_eq h rfl)
  · exact decodeEng_of_busy (getLsbD_of_and_eq h rfl) (getLsbD_of_and_eq h rfl)
  · exact decodeEng_of_absorb (getLsbD_of_and_eq h rfl) (getLsbD_of_and_eq h rfl) (getLsbD_of_and_eq h rfl)
  · exact decodeEng_of_idle (getLsbD_of_and_eq h rfl) (getLsbD_of_and_eq h rfl) (getLsbD_of_and_eq h rfl)
  · decide

/-! ## The values of the hex digits (R50) -/

theorem hexval_of_decimal {c : Byte} (hlo : 0x30 ≤ c) (hhi : c ≤ 0x39) : hexval c = some (c.setWidth 4) := by
  have hrange : 0x30 ≤ c.toNat ∧ c.toNat ≤ 0x39 := ⟨hlo, hhi⟩
  rw [hexval, if_pos hrange, Option.some_inj]
  bv_omega

theorem hexval_of_upper {c : Byte} (hlo : 0x41 ≤ c) (hhi : c ≤ 0x46) : hexval c = some (c.setWidth 4 + 9) := by
  have hrange : 0x41 ≤ c.toNat ∧ c.toNat ≤ 0x46 := ⟨hlo, hhi⟩
  rw [hexval, if_neg (by omega), if_pos hrange, Option.some_inj]
  bv_omega

theorem hexval_of_lower {c : Byte} (hlo : 0x61 ≤ c) (hhi : c ≤ 0x66) : hexval c = some (c.setWidth 4 + 9) := by
  have hrange : 0x61 ≤ c.toNat ∧ c.toNat ≤ 0x66 := ⟨hlo, hhi⟩
  rw [hexval, if_neg (by omega), if_neg (by omega), if_pos hrange, Option.some_inj]
  bv_omega

/-- Settles O10: the three ranges of the definition, and no other. -/
theorem hexDigitValues : Obligations.HexDigitValues := by
  unfold Obligations.HexDigitValues
  refine ⟨fun c => hexval_of_decimal, fun c h => ?_, fun c hd hu hl => ?_, rfl, rfl, rfl, rfl, hexval_hexRow⟩
  · rcases h with ⟨hlo, hhi⟩ | ⟨hlo, hhi⟩
    · exact hexval_of_upper hlo hhi
    · exact hexval_of_lower hlo hhi
  · exact (if_neg hd).trans ((if_neg hu).trans (if_neg hl))

/-! ## The operation of the coming edge (R44, R46, R54, R58) -/

/-- A step at an edge without reset runs the operation fetched. -/
theorem step_of_fetch {s : State} {i : Instr} (hr : s.pins.rst = false) (hf : fetch s = some i) :
    step s = exec i s.advance := by
  simp only [step, hr, hf, Bool.false_eq_true, ↓reduceIte]

theorem fetch_recv {s : State} (hb : s.block = .frameChecker) (hp : s.phase = .recv) (hv : s.pins.inValid = true) :
    fetch s = some (decodeSym s.symWord) := by
  simp only [fetch, hb, fetchFrameChecker, hp, hv, ↓reduceIte]

theorem fetch_check {s : State} (hb : s.block = .frameChecker) (hp : s.phase = .check) :
    fetch s = (decodeState s.stateWord).toOption := by
  simp only [fetch, hb, fetchFrameChecker, hp]

theorem fetch_render {s : State} (hb : s.block = .frameChecker) (hp : s.phase = .render)
    (ho : s.pins.outReady = true) : fetch s = (decodeState s.stateWord).toOption := by
  simp only [fetch, hb, fetchFrameChecker, hp, ho, ↓reduceIte]

theorem fetch_engine {s : State} (hb : s.block = .engine) : fetch s = some (decodeEng s.engWord) := by
  simp only [fetch, hb]

/-- Settles O3: the word that `fetch` decodes is the word of the statement. -/
theorem stepRunsSelectedOperation : Obligations.StepRunsSelectedOperation := by
  unfold Obligations.StepRunsSelectedOperation
  intro s hr
  refine ⟨fun hb hp hv i hi => ?_, fun hb hp i hi => ?_, fun hb hp ho i hi => ?_, fun hb i hi => ?_, fun hb hnone => ?_⟩
  · rw [decode_sym_toNat, Except.ok.injEq] at hi
    exact step_of_fetch hr ((fetch_recv hb hp hv).trans (congrArg some hi))
  · rw [decode_state_toNat] at hi
    exact step_of_fetch hr ((fetch_check hb hp).trans (congrArg Except.toOption hi))
  · rw [decode_state_toNat] at hi
    exact step_of_fetch hr ((fetch_render hb hp ho).trans (congrArg Except.toOption hi))
  · rw [decode_eng_toNat, Except.ok.injEq] at hi
    exact step_of_fetch hr ((fetch_engine hb).trans (congrArg some hi))
  · rcases hnone with ⟨hp, hv⟩ | ⟨hp, ho⟩ | hp
    · exact step_paused hb hr (.inl ⟨hp, hv⟩)
    · exact step_paused hb hr (.inr ⟨hp, ho⟩)
    · exact step_done s hb hp hr

/-! ## Placed words (log entry 11) -/

/-- A symbol word and the word of its two fields select the same operation. -/
theorem decodeSym_fields (w : SymWord) : decodeSym (symWordOf (symEof w) (symChar w)) = decodeSym w :=
  decodeSym_of _ _

theorem decodeEng_fields (w : EngWord) :
    decodeEng (engWordOf (engWordBusy w) (engWordClear w) (engWordValid w) (engWordByte w)) = decodeEng w :=
  decodeEng_of _ _ _ _

theorem decodeState_fields (w : StateWord) :
    decodeState (stateWordOf (stateWordPhase w) (stateWordBusy w) (stateWordLast w)) = decodeState w :=
  decodeState_of _ _ _

theorem fetch_placeSym (s : State) (w : SymWord) : fetch (s.placeSym w) = some (decodeSym w) :=
  (fetch_recv rfl rfl rfl).trans (congrArg some (decodeSym_fields w))

/-- `bitcntFor` makes the engine what the word says. -/
theorem bitcntFor_ne_zero : ∀ (busy : Bool) (old : BitVec 4), (bitcntFor busy old != 0) = busy := by decide

theorem fetch_placeEng (s : State) (w : EngWord) : fetch (s.placeEng w) = some (decodeEng w) := by
  have hbusy : (s.placeEng w).engBusy = engWordBusy w := bitcntFor_ne_zero _ _
  rw [fetch_engine rfl, State.engWord, hbusy]
  exact congrArg some (decodeEng_fields w)

theorem State.placeFrame_atLen (s : State) (last : Bool) : (s.placeFrame last).atLen = last := by
  cases last <;> simp [State.placeFrame, State.atLen, State.len]

/-- What a placed condition word leaves: the pins and the three conditions of the word. -/
theorem State.placeState_conditions (s : State) (w : StateWord) :
    (s.placeState w).block = .frameChecker ∧ (s.placeState w).pins = Pins.ready ∧
    (s.placeState w).phase = phaseOfCode (stateWordPhase w) ∧ (s.placeState w).engBusy = stateWordBusy w ∧
    (s.placeState w).atLen = stateWordLast w := by
  have hbusy := bitcntFor_ne_zero (stateWordBusy w) s.bitcnt
  unfold State.placeState
  dsimp only
  split
  next hfits =>
    refine ⟨rfl, rfl, rfl, hbusy, ?_⟩
    simp only [State.frameFits, Bool.and_eq_true, beq_iff_eq] at hfits
    obtain ⟨⟨⟨hlast, -⟩, -⟩, -⟩ := hfits
    exact hlast
  next => exact ⟨rfl, rfl, rfl, hbusy, State.placeFrame_atLen _ _⟩

theorem phaseOfCode_code (c : BitVec 2) : (phaseOfCode c).code = c := by
  revert c
  decide

theorem fetch_placeState {s : State} {w : StateWord} {i : Instr} (h : decodeState w = .ok i) :
    fetch (s.placeState w) = some i := by
  obtain ⟨hb, hpins, hphase, hbusy, hlast⟩ := s.placeState_conditions w
  have hword : decodeState (s.placeState w).stateWord = .ok i := by
    rw [State.stateWord, hphase, phaseOfCode_code, hbusy, hlast, decodeState_fields, h]
  cases hp : (s.placeState w).phase with
  | check => rw [fetch_check hb hp, hword]; rfl
  | render => rw [fetch_render hb hp (by rw [hpins]; rfl), hword]; rfl
  | recv | done =>
    rw [State.stateWord, hp, decodeState_of] at hword
    cases hword

/-- A placed word that the format decodes is the operation of the next step. -/
theorem step_placeWord (s : State) {f : Format} {w : Nat} {i : Instr} (h : decode f w = .ok i) :
    step (s.placeWord f w) = exec i (s.placeWord f w).advance := by
  unfold decode at h
  split_ifs at h with hw
  cases f with
  | sym =>
    cases h
    exact step_of_fetch rfl (fetch_placeSym s _)
  | eng =>
    cases h
    exact step_of_fetch rfl (fetch_placeEng s _)
  | state =>
    obtain ⟨-, hpins, -⟩ := s.placeState_conditions (BitVec.ofNat 4 w)
    exact step_of_fetch (by rw [State.placeWord, hpins]; rfl) (fetch_placeState h)

theorem decode_of_decodeTableWord {nbits w : Nat} {i : Instr} (h : decodeTableWord nbits w = some i) :
    decode (tableFormat nbits w) w = .ok i := by
  unfold decodeTableWord at h
  cases hd : decode (tableFormat nbits w) w <;> rw [hd] at h <;> cases h
  rfl

/-- Settles O4: the word formed at the placed edge has the fields of the word placed. -/
theorem placedWordRunsNext : Obligations.PlacedWordRunsNext := by
  unfold Obligations.PlacedWordRunsNext
  intro s nbits w i h
  exact step_placeWord s (decode_of_decodeTableWord h)

end Sys2Proof.Machine
end

section
/-! SUPPORT. The algebra of the checksum (spec/40_crc_engine.md R70) and what the accept rule admits
(spec/41_frame_decoder.md R95). -/

namespace Sys2Proof.Machine

open Sys2Proof

/-- R60: the one-byte table is eight bit steps of the byte. -/
theorem crc8_singleton (x : Byte) : crc8 [x] = bitsteps 8 x := by
  simp [crc8, crcByte, crcInit]

theorem crc8_append_eq_crc8_singleton (bytes : List Byte) (b : Byte) :
    crc8 (bytes ++ [b]) = crc8 [crc8 bytes ^^^ b] := by
  rw [crc8_append_singleton, crcByte, crc8_singleton]

/-! ## Linearity (R70 (b)) -/

theorem crcByte_xor (c d a b : Byte) : crcByte (c ^^^ d) (a ^^^ b) = crcByte c a ^^^ crcByte d b := by
  have hswap : c ^^^ d ^^^ (a ^^^ b) = c ^^^ a ^^^ (d ^^^ b) := by ac_rfl
  rw [crcByte, hswap, bitsteps_xor]
  rfl

theorem foldl_crcByte_xor {as bs : List Byte} (h : as.length = bs.length) (c d : Byte) :
    (List.zipWith (fun a b => a ^^^ b) as bs).foldl crcByte (c ^^^ d) =
      as.foldl crcByte c ^^^ bs.foldl crcByte d := by
  induction as generalizing bs c d with
  | nil =>
    obtain rfl : bs = [] := List.length_eq_zero_iff.1 h.symm
    rfl
  | cons a as ih =>
    cases bs with
    | nil => cases h
    | cons b bs =>
      simp only [List.zipWith_cons_cons, List.foldl_cons, crcByte_xor]
      exact ih (Nat.succ.inj h) _ _

/-! ## Zero bytes (R70 (c)) -/

theorem crc8_cons_zero (bytes : List Byte) : crc8 (0x00 :: bytes) = crc8 bytes := by
  have hzero : crcByte crcInit 0x00 = crcInit := bitsteps_zero_byte 8
  rw [crc8, List.foldl_cons, hzero]
  rfl

theorem crc8_replicate_zero (n : Nat) : crc8 (List.replicate n 0x00) = 0x00 := by
  induction n with
  | zero => rfl
  | succ n ih => rw [List.replicate_succ, crc8_cons_zero, ih]

/-! ## The one-byte table (R70 (d)) -/

/-- R61: the bit shifted out comes back as bit 0, so no byte but 0 steps to 0. -/
theorem eq_zero_of_bitstep_eq_zero {c : Byte} (h : bitstep c = 0) : c = 0 := by
  have h7 : c.getLsbD 7 = false := by rw [← bitstep_getLsbD_zero, h]; rfl
  rw [bitstep_of_not_getLsbD h7] at h
  have hlow (j : Nat) (hj : j < 7) : c.getLsbD j = false := by
    have hbit := congrArg (fun x : Byte => x.getLsbD (j + 1)) h
    simpa [-BitVec.getLsbD_eq_getElem, show j + 1 < 8 by omega] using hbit
  refine BitVec.eq_of_getLsbD_eq fun j hj => ?_
  change c.getLsbD j = (0#8).getLsbD j
  rw [BitVec.getLsbD_zero]
  rcases Nat.lt_or_ge j 7 with hlt | hge
  · exact hlow j hlt
  · obtain rfl : j = 7 := by omega
    exact h7

theorem bitstep_injective : Function.Injective bitstep := by
  intro a b h
  have hxor : bitstep (a ^^^ b) = 0 := by rw [bitstep_xor, h, BitVec.xor_self]; rfl
  exact BitVec.xor_eq_zero_iff.1 (eq_zero_of_bitstep_eq_zero hxor)

theorem bitsteps_injective (n : Nat) : Function.Injective (bitsteps n) := by
  rw [funext (bitsteps_eq_iterate n)]
  exact bitstep_injective.iterate n

theorem crc8_singleton_bijective : Function.Bijective fun x : Byte => crc8 [x] := by
  rw [funext crc8_singleton]
  exact Finite.injective_iff_bijective.1 (bitsteps_injective 8)

/-- R70 (e): the conventional self-check. -/
theorem crc8_append_crc8 (bytes : List Byte) : crc8 (bytes ++ [crc8 bytes]) = 0x00 := by
  rw [crc8_append_eq_crc8_singleton, BitVec.xor_self, crc8_singleton]
  exact bitsteps_zero_byte 8

/-- Settles O15: each law by its lemma, all from the linearity of `bitstep`. -/
theorem crcAlgebraicLaws : Obligations.CrcAlgebraicLaws := by
  unfold Obligations.CrcAlgebraicLaws
  exact ⟨crc8_append_eq_crc8_singleton, bitstep_xor, fun as bs h => foldl_crcByte_xor h crcInit crcInit,
    crc8_replicate_zero, crc8_cons_zero, crc8_singleton_bijective, crc8_append_crc8⟩

/-! ## The accept rule (R78, R95) -/

theorem acceptFrame_append_iff (payload : List Byte) (t : Byte) :
    acceptFrame (payload ++ [t]) = true ↔ crc8 [crc8 payload ^^^ t] = t := by
  rw [acceptFrame_iff (by simp), List.getLast_append_singleton, crc8_append_eq_crc8_singleton]

/-- R95: the bytes that the one-byte table leaves as they are. -/
theorem crc8_singleton_eq_self_iff : ∀ t : Byte, crc8 [t] = t ↔ t = 0x00 ∨ t = 0xFD := by decide +kernel

/-- R95: the payload 01 has no trailer. -/
theorem crc8_payload_one_ne : ∀ t : Byte, crc8 [crc8 [0x01] ^^^ t] ≠ t := by decide +kernel

/-- R95 (a): the conventional trailer makes the frame's checksum 0. -/
theorem acceptFrame_conventional_iff (payload : List Byte) :
    acceptFrame (payload ++ [crc8 payload]) = true ↔ crc8 payload = 0x00 := by
  rw [acceptFrame_iff (by simp), List.getLast_append_singleton, crc8_append_crc8, eq_comm]

theorem acceptFrame_replicate_zero (n : Nat) : acceptFrame (List.replicate (n + 1) 0x00) = true := by
  rw [List.replicate_succ', acceptFrame_append_iff, crc8_replicate_zero]
  decide +kernel

theorem xor_eq_iff_eq_xor {a b c : Byte} : a ^^^ b = c ↔ b = a ^^^ c := by
  rw [← BitVec.xor_right_inj a, ← BitVec.xor_assoc, BitVec.xor_self, BitVec.zero_xor]

/-- R95: two trailers are both accepted exactly when the table leaves their difference as it is. -/
theorem acceptFrame_companion_iff {payload : List Byte} {t : Byte} (u : Byte)
    (h : acceptFrame (payload ++ [t]) = true) :
    acceptFrame (payload ++ [u]) = true ↔ u = t ∨ u = t ^^^ 0xFD := by
  rw [acceptFrame_append_iff] at h ⊢
  have hlinear : crc8 [crc8 payload ^^^ u] = t ^^^ crc8 [t ^^^ u] := by
    have hsplit : crc8 payload ^^^ u = crc8 payload ^^^ t ^^^ (t ^^^ u) := by
      rw [BitVec.xor_assoc, ← xor_eq_iff_eq_xor.1 rfl]
    rw [crc8_singleton] at h
    rw [crc8_singleton, hsplit, bitsteps_xor, h, crc8_singleton]
  calc crc8 [crc8 payload ^^^ u] = u
    _ ↔ crc8 [t ^^^ u] = t ^^^ u := by rw [hlinear, xor_eq_iff_eq_xor]
    _ ↔ t ^^^ u = 0x00 ∨ t ^^^ u = 0xFD := crc8_singleton_eq_self_iff _
    _ ↔ u = t ∨ u = t ^^^ 0xFD := by rw [xor_eq_iff_eq_xor, xor_eq_iff_eq_xor]; simp

/-- Settles O16: the table's fixed points decide which trailers go together. -/
theorem acceptRuleConsequences : Obligations.AcceptRuleConsequences := by
  unfold Obligations.AcceptRuleConsequences
  refine ⟨acceptFrame_append_iff, acceptFrame_conventional_iff, fun t => ?_, acceptFrame_replicate_zero,
    fun payload t u h => acceptFrame_companion_iff u h, fun t => ?_⟩
  · rw [← crc8_singleton_eq_self_iff]
    simpa using acceptFrame_append_iff [] t
  · exact Bool.eq_false_iff.2 (mt (acceptFrame_append_iff [0x01] t).1 (crc8_payload_one_ne t))

end Sys2Proof.Machine
end

section
/-! SUPPORT. The output of an accepted frame (spec/41_frame_decoder.md R90, R91): the bit string determines the
bytes. -/

namespace Sys2Proof.Machine

open Sys2Proof

theorem bitChar_eq (b : Bool) : bitChar b = if b then 0x31 else 0x30 := by
  cases b <;> rfl

theorem bitChar_injective : Function.Injective bitChar := by
  unfold Function.Injective
  decide

theorem mem_bits8 {b c : Byte} (h : c ∈ bits8 b) : c = 0x30 ∨ c = 0x31 := by
  obtain ⟨i, -, rfl⟩ := List.mem_map.1 h
  rw [bitChar_eq]
  split <;> simp

/-- R90: each bit has its position, so the eight characters determine the byte. -/
theorem bits8_injective : Function.Injective bits8 := by
  intro b c h
  refine BitVec.eq_of_getLsbD_eq fun j hj => bitChar_injective (Option.some.inj ?_)
  have hpos : j = 7 - (7 - j) := by omega
  rw [hpos, ← bits8_getElem? b (by omega), ← bits8_getElem? c (by omega), h]

/-- R91: the `i`-th group of eight is that of byte `i`. -/
theorem flatMap_bits8_group {bytes : List Byte} {i : Nat} {b : Byte} (h : bytes[i]? = some b) :
    ((bytes.flatMap bits8).drop (8 * i)).take 8 = bits8 b := by
  induction bytes generalizing i with
  | nil => simp at h
  | cons c bytes ih =>
    rw [List.flatMap_cons]
    cases i with
    | zero =>
      obtain rfl : c = b := Option.some.inj h
      exact List.take_left (l₁ := bits8 c)
    | succ i =>
      have hdrop : 8 * (i + 1) = (bits8 c).length + 8 * i := Nat.add_comm (8 * i) 8
      rw [hdrop, List.drop_length_add_append]
      exact ih h

/-- Settles O19: an answer is the bit string of the bytes decoded, which its groups of eight give back. -/
theorem renderedFrameReproducesBytes : Obligations.RenderedFrameReproducesBytes := by
  unfold Obligations.RenderedFrameReproducesBytes
  intro maxBytes text out h
  obtain ⟨-, -, -, haccepted⟩ := decodeFrameOutcomes maxBytes text
  obtain ⟨-, bytes, -, hbytes, -, rfl⟩ := (haccepted out).1 h
  refine ⟨bytes, hbytes, flatMap_bits8_length bytes, fun c hc => ?_, fun i b hb => ?_⟩
  · obtain ⟨b, -, hcb⟩ := List.mem_flatMap.1 hc
    exact mem_bits8 hcb
  · have hgroup := flatMap_bits8_group hb
    exact ⟨hgroup, fun c hc => bits8_injective (hc.symm.trans hgroup)⟩

end Sys2Proof.Machine
end

section
/-! SUPPORT. The engine as a block of its own (spec/40_crc_engine.md R66 to R68, R125): the frame of its operations, and
the checksum of the bytes it is fed. -/

namespace Sys2Proof.Machine

open Sys2Proof

theorem exec_engIdle (s : State) : exec .engIdle s = engineEdge s s := rfl

/-- Settles O23: an idle engine answers what the command asks, a busy one a bit step. -/
theorem engIdleEffect : Obligations.EngIdleEffect := by
  unfold Obligations.EngIdleEffect
  refine ⟨fun s hz => ?_, fun s hn => ?_, fun w hc hb hv => decodeEng_of_idle hc hb hv⟩
  · exact (exec_engIdle s).trans (engineEdge_of_idle _ hz)
  · exact (exec_engIdle s).trans (engineEdge_of_busy _ hn)

/-! ## The frame of the engine's operations -/

/-- Only the engine's two registers differ. -/
def State.SameButEngine (s t : State) : Prop := t = { s with crc := t.crc, bitcnt := t.bitcnt }

theorem engineEdge_frame {s u t : State} (hu : s.SameButEngine u) (h : engineEdge s u = .next t) :
    s.SameButEngine t := by
  rcases engineEdge_cases s u with ⟨-, he⟩ | ⟨-, he⟩ <;> rw [he] at h <;> cases h
  · rfl
  · exact hu

theorem execCheckBitstep_frame {s t : State} (h : execCheckBitstep s = .next t) : s.SameButEngine t := by
  unfold execCheckBitstep at h
  split at h <;> cases h <;> rfl

/-- Settles O44: each operation is an edge of the engine, or the bit step of CHECK. -/
theorem engineOperationsFrame : Obligations.EngineOperationsFrame := by
  unfold Obligations.EngineOperationsFrame
  intro i s t hi h
  have hframe : s.SameButEngine t := by
    rcases hi with rfl | ⟨b, rfl⟩ | rfl | rfl | rfl
    · cases h; rfl
    · exact engineEdge_frame (u := s.engAbsorb b) rfl h
    · exact engineEdge_frame (u := s) rfl h
    · exact engineEdge_frame (u := s) rfl h
    · exact execCheckBitstep_frame h
  rw [hframe]
  exact ⟨fun _ => rfl, rfl, rfl, rfl, rfl, rfl, rfl, rfl, rfl, rfl, rfl, rfl, rfl⟩

/-! ## An engine fed bytes (R67, R68) -/

section
variable {s : State} (hb : s.block = .engine) (hr : s.pins.rst = false)
include hb hr

theorem step_engineClear (hc : s.pins.engClear = true) : step s = .next s.advance.engClr := by
  rw [step_engine s hb hr, if_pos hc]

theorem step_engineBusy (hc : s.pins.engClear = false) (hn : s.bitcnt ≠ 0) : step s = .next s.advance.engBitstep := by
  rw [step_engine s hb hr, hc, if_neg Bool.false_ne_true]
  exact engineEdge_of_busy (s := s.advance) _ hn

theorem step_engineAbsorb (hc : s.pins.engClear = false) (hz : s.bitcnt = 0) (hv : s.pins.engValid = true) :
    step s = .next (s.advance.engAbsorb s.pins.engByte) := by
  rw [step_engine s hb hr, hc, if_neg Bool.false_ne_true, if_pos hv]
  exact engineEdge_of_idle (s := s.advance) _ hz

theorem step_engineIdle (hc : s.pins.engClear = false) (hz : s.bitcnt = 0) (hv : s.pins.engValid = false) :
    step s = .next s.advance := by
  rw [step_engine s hb hr, hc, if_neg Bool.false_ne_true, hv, if_neg Bool.false_ne_true]
  exact engineEdge_of_idle (s := s.advance) _ hz

end

/-- R125: a busy engine takes the bit steps owed, whatever is offered meanwhile. -/
theorem run_engineBusy {s : State} {busy rest : List Pins} (hb : s.block = .engine)
    (hpins : ∀ p ∈ busy, p.rst = false ∧ p.engClear = false) (hcnt : s.bitcnt.toNat = busy.length)
    (hedges : s.edges = busy ++ rest) :
    Host.Core.run Sys2Proof.core busy.length s =
      .next { s with crc := bitsteps busy.length s.crc, bitcnt := 0, edges := rest } := by
  induction busy generalizing s with
  | nil =>
    obtain rfl : s.edges = rest := hedges
    have hz : s.bitcnt = 0 := BitVec.eq_of_toNat_eq hcnt
    rw [← hz]
    rfl
  | cons p busy ih =>
    obtain ⟨⟨hr, hc⟩, hlater⟩ := List.forall_mem_cons.1 hpins
    rw [← State.pins_of_edges hedges] at hr hc
    have hn : s.bitcnt ≠ 0 := fun h => by simp [h] at hcnt
    have hcnt' : (s.bitcnt - 1).toNat = busy.length := by
      rw [List.length_cons] at hcnt
      bv_omega
    rw [List.length_cons, Core.run_succ_next (step_engineBusy hb hr hc hn)]
    exact ih (s := s.advance.engBitstep) hb hlater hcnt' (congrArg List.tail hedges)

/-- R67: a command and the eight edges after it take the checksum one byte further. -/
theorem run_engineByte {s : State} {p : Pins} {busy rest : List Pins} (hb : s.block = .engine) (hz : s.bitcnt = 0)
    (hr : p.rst = false) (hc : p.engClear = false) (hv : p.engValid = true) (hlen : busy.length = 8)
    (hbusy : ∀ q ∈ busy, q.rst = false ∧ q.engClear = false) (hedges : s.edges = p :: (busy ++ rest)) :
    Host.Core.run Sys2Proof.core (busy.length + 1) s =
      .next { s with crc := crcByte s.crc p.engByte, edges := rest } := by
  have hpin : s.pins = p := State.pins_of_edges hedges
  subst hpin
  have hrun := run_engineBusy (s := s.advance.engAbsorb s.pins.engByte) (rest := rest) hb hbusy hlen.symm
    (congrArg List.tail hedges)
  rw [Core.run_succ_next (step_engineAbsorb hb hr hc hz hv), hrun, hlen, ← hz]
  rfl

/-- R68: the bytes fed, in order, whatever stands between them. -/
theorem run_engineFeed {feed rest : List Pins} {bytes : List Byte} (hfeed : EngineFeed feed bytes) {s : State}
    (hb : s.block = .engine) (hz : s.bitcnt = 0) (hedges : s.edges = feed ++ rest) :
    Host.Core.run Sys2Proof.core feed.length s =
      .next { s with crc := bytes.foldl crcByte s.crc, edges := rest } := by
  induction hfeed generalizing s with
  | done =>
    obtain rfl : s.edges = rest := hedges
    rfl
  | idle p later bytes hr hc hv _ ih =>
    rw [← State.pins_of_edges hedges] at hr hc hv
    rw [List.length_cons, Core.run_succ_next (step_engineIdle hb hr hc hz hv)]
    exact ih (s := s.advance) hb hz (congrArg List.tail hedges)
  | byte p busy later bytes hr hc hv hlen hbusy _ ih =>
    rw [List.cons_append, List.append_assoc] at hedges
    have hbyte := run_engineByte hb hz hr hc hv hlen hbusy hedges
    have hcount : (p :: (busy ++ later)).length = busy.length + 1 + later.length := by
      rw [List.length_cons, List.length_append, Nat.add_right_comm]
    rw [hcount, Core.run_add_next hbyte]
    exact ih (s := { s with crc := crcByte s.crc p.engByte, edges := later ++ rest }) hb hz rfl

/-- Settles O24: the clear leaves an idle engine with `crc` 0, from which the bytes fed give their checksum. -/
theorem engineComputesCrc8OnAnyFeed : Obligations.EngineComputesCrc8OnAnyFeed := by
  unfold Obligations.EngineComputesCrc8OnAnyFeed
  intro s p feed rest bytes hb hr hc hfeed hedges
  rw [← State.pins_of_edges hedges] at hr hc
  rw [Nat.add_comm, Core.run_succ_next (step_engineClear hb hr hc)]
  exact run_engineFeed hfeed (s := s.advance.engClr) hb rfl (congrArg List.tail hedges)

end Sys2Proof.Machine
end

section
/-! SUPPORT. The invariant of the state (spec/10_state.md R13 to R24, spec/20_memory.md R40): it holds at the start of
an invocation, each operation of the machine keeps it, and in every state that meets it a step has a next state. -/

namespace Sys2Proof.Machine

open Sys2Proof

theorem State.start_inv (cfg : Config) (block : Block) (edges : List Pins) : (State.start cfg block edges).Inv where
  memory_wf := rfl
  memory_range := nofun
  nchars_le := Nat.zero_le _
  idx_le := Nat.zero_le _
  bitcnt_le := Nat.zero_le _
  status_le := Nat.zero_le _
  status_zero _ := rfl
  received _ _ i hi := by simp [State.start] at hi
  frame := nofun
  engine_idle _ _ := rfl
  bit_reloaded := nofun

/-! ## The complete frame (R17, R40) -/

/-- A frame stays complete while its text, its flag and its cells stay and `idx` keeps to it. -/
theorem State.FrameReady.congr {s t : State} (h : s.FrameReady) (hn : t.nchars = s.nchars) (hcfg : t.cfg = s.cfg)
    (hbad : t.bad = s.bad) (hbuf : t.buf = s.buf) (hidx : t.idx ≤ t.len) : t.FrameReady where
  even := by rw [hn, h.even]
  two_le := by rw [hn]; exact h.two_le
  le_limit := by rw [hn, State.textLimit, hcfg]; exact h.le_limit
  good := by rw [hbad, h.good]
  idx_le := hidx
  filled i hi := by
    rw [State.len, hn] at hi
    rw [State.written, hbuf]
    exact h.filled i hi

theorem State.FrameReady.len_le {s : State} (h : s.FrameReady) : s.len ≤ s.cfg.maxBytes := by
  have hle := h.le_limit
  rw [State.textLimit] at hle
  rw [State.len]
  omega

theorem State.FrameReady.len_pos {s : State} (h : s.FrameReady) : 0 < s.len := by
  have hle := h.two_le
  rw [State.len]
  omega

/-- R40: every byte of a complete frame is readable. -/
theorem State.FrameReady.readable {s : State} (h : s.FrameReady) {a : Nat} (ha : a < s.len) :
    ∃ b, s.memRead a = .ok b := by
  obtain ⟨b, hb⟩ := Option.isSome_iff_exists.1 (h.filled a ha)
  exact ⟨b, State.memRead_ok.2 ⟨ha.trans_le h.len_le, hb⟩⟩

theorem State.FrameReady.trailer {s : State} (h : s.FrameReady) : ∃ b, s.trailer = .ok b := by
  have hpos := h.len_pos
  rw [State.trailer_of_len_ne_zero hpos.ne']
  exact h.readable (Nat.sub_lt hpos Nat.one_pos)

/-! ## Written cells -/

theorem State.written_setCell (s : State) (a : Nat) (v : Byte) : (s.setCell a v).written a := by
  simp [State.written]

/-- A store leaves no written cell without a value. -/
theorem State.written.setCell {s : State} {i a : Nat} {v : Byte} (h : s.written i) : (s.setCell a v).written i := by
  rw [State.written, State.setCell_buf, Memory.lookup_insert]
  split
  · rfl
  · exact h

theorem State.FrameReady.setCell {s : State} {a : Nat} {v : Byte} (h : s.FrameReady) : (s.setCell a v).FrameReady :=
  ⟨h.even, h.two_le, h.le_limit, h.good, h.idx_le, fun i hi => (h.filled i hi).setCell⟩

/-! ## What the operations keep -/

namespace State.Inv

variable {s : State} (h : s.Inv)
include h

/-- Nothing of the invariant looks at `crc`, `hi`, the edges or the records. -/
theorem withRecords (c : Byte) (v : Nibble) (edges : List Pins) (taken : List Sym) (sent : List Byte) :
    State.Inv { s with crc := c, hi := v, edges := edges, taken := taken, sent := sent } where
  memory_wf := h.memory_wf
  memory_range := h.memory_range
  nchars_le := h.nchars_le
  idx_le := h.idx_le
  bitcnt_le := h.bitcnt_le
  status_le := h.status_le
  status_zero := h.status_zero
  received := h.received
  frame hp := (h.frame hp).congr rfl rfl rfl rfl (h.frame hp).idx_le
  engine_idle := h.engine_idle
  bit_reloaded := h.bit_reloaded

theorem advance : s.advance.Inv := h.withRecords s.crc s.hi s.edges.tail s.taken s.sent

theorem take (x : Sym) : (s.take x).Inv := h.withRecords s.crc s.hi s.edges (s.taken ++ [x]) s.sent

theorem send (c : Byte) : (s.send c).Inv := h.withRecords s.crc s.hi s.edges s.taken (s.sent ++ [c])

theorem holdDigit (v : Nibble) : (s.holdDigit v).Inv := h.withRecords s.crc v s.edges s.taken s.sent

/-- R15, R125: the engine may be given any registers where it may be busy, and `bitcnt` 0 everywhere. -/
theorem withEngine (c : Byte) {n : BitVec 4} (hn : n.toNat ≤ 8)
    (hidle : s.block = .frameChecker → s.phase ≠ .check → n = 0) : State.Inv { s with crc := c, bitcnt := n } where
  memory_wf := h.memory_wf
  memory_range := h.memory_range
  nchars_le := h.nchars_le
  idx_le := h.idx_le
  bitcnt_le := hn
  status_le := h.status_le
  status_zero := h.status_zero
  received := h.received
  frame hp := (h.frame hp).congr rfl rfl rfl rfl (h.frame hp).idx_le
  engine_idle := hidle
  bit_reloaded := h.bit_reloaded

theorem engClr : s.engClr.Inv := h.withEngine crcInit (Nat.zero_le 8) fun _ _ => rfl

theorem engAbsorb (b : Byte) (hidle : ¬(s.block = .frameChecker ∧ s.phase ≠ .check)) : (s.engAbsorb b).Inv :=
  h.withEngine (s.crc ^^^ b) (n := 8) (Nat.le_refl 8) fun hb hp => absurd ⟨hb, hp⟩ hidle

theorem engBitstep (hn : s.bitcnt ≠ 0) : s.engBitstep.Inv := by
  refine h.withEngine (bitstep s.crc) ?_ fun hb hp => absurd (h.engine_idle hb hp) hn
  have hle := h.bitcnt_le
  bv_omega

/-- R22: the end of an invocation. -/
theorem ended {code : BitVec 3} (hcode : code.toNat ≤ 4) (hz : s.block = .frameChecker → s.bitcnt = 0) :
    State.Inv { s with status := code, phase := .done } where
  memory_wf := h.memory_wf
  memory_range := h.memory_range
  nchars_le := h.nchars_le
  idx_le := h.idx_le
  bitcnt_le := h.bitcnt_le
  status_le := hcode
  status_zero hp := absurd rfl hp
  received := nofun
  frame := nofun
  engine_idle hb _ := hz hb
  bit_reloaded := nofun

theorem raise (e : ErrorKind) (hz : s.block = .frameChecker → s.bitcnt = 0) : (s.raise e).Inv :=
  h.ended (by cases e <;> decide) hz

theorem finishOk (hz : s.block = .frameChecker → s.bitcnt = 0) : s.finishOk.Inv := h.ended (by decide) hz

/-! ### Reception -/

/-- R33: a store keeps the form and the range of the buffer, and every written cell. -/
theorem setCell {a : Nat} (v : Byte) (ha : a < s.cfg.maxBytes) : (s.setCell a v).Inv where
  memory_wf := Memory.wf_insert _ _ _ h.memory_wf
  memory_range cell hcell := by
    rcases Memory.mem_insert _ hcell with rfl | hold
    · exact ha
    · exact h.memory_range cell hold
  nchars_le := h.nchars_le
  idx_le := h.idx_le
  bitcnt_le := h.bitcnt_le
  status_le := h.status_le
  status_zero := h.status_zero
  received hp hbad i hi := (h.received hp hbad i hi).setCell
  frame hp := (h.frame hp).setCell
  engine_idle := h.engine_idle
  bit_reloaded := h.bit_reloaded

/-- R17: a character counted completes the pair that is stored by now. -/
theorem countChar (hp : s.phase = .recv)
    (hpair : s.bad = false → s.nchars < s.textLimit → s.nchars % 2 = 1 → s.written (s.nchars / 2)) :
    s.countChar.Inv where
  memory_wf := h.memory_wf
  memory_range := h.memory_range
  nchars_le := Nat.min_le_right _ _
  idx_le := h.idx_le
  bitcnt_le := h.bitcnt_le
  status_le := h.status_le
  status_zero := h.status_zero
  received _ hbad i hi := by
    have hi : i < min (min (s.nchars + 1) (s.textLimit + 1)) s.textLimit / 2 := hi
    by_cases hold : i < min s.nchars s.textLimit / 2
    · exact h.received hp hbad i hold
    · obtain rfl : i = s.nchars / 2 := by omega
      exact hpair hbad (by omega) (by omega)
  frame hf := absurd hf (by simp [hp])
  engine_idle := h.engine_idle
  bit_reloaded hr := absurd hr (by simp [hp])

theorem markBad (hp : s.phase = .recv) : s.markBad.Inv where
  memory_wf := h.memory_wf
  memory_range := h.memory_range
  nchars_le := h.nchars_le
  idx_le := h.idx_le
  bitcnt_le := h.bitcnt_le
  status_le := h.status_le
  status_zero := h.status_zero
  received _ := nofun
  frame hf := absurd hf (by simp [hp])
  engine_idle := h.engine_idle
  bit_reloaded hr := absurd hr (by simp [hp])

/-- R82: a digit held, stored or dropped, and counted. -/
theorem storeDigit {u : State} {v : Nibble} (hp : s.phase = .recv) (hu : s.storeDigit v = .ok u) : u.countChar.Inv := by
  rcases s.storeDigit_cases v with ⟨-, heven, he⟩ | ⟨-, -, ha, he⟩ | ⟨hle, he⟩ <;> rw [he] at hu <;> cases hu
  · exact (h.holdDigit v).countChar hp fun _ _ hodd => absurd (heven.symm.trans hodd) Nat.zero_ne_one
  · exact (h.setCell _ ha).countChar hp fun _ _ _ => s.written_setCell _ _
  · exact h.countChar hp fun _ hlt => absurd hlt (Nat.not_lt.2 hle)

theorem idle_of_ne_check (hp : s.phase ≠ .check) : s.block = .frameChecker → s.bitcnt = 0 :=
  fun hb => h.engine_idle hb hp

/-- R86: CHECK is entered with the frame complete. -/
theorem enterCheck (hp : s.phase = .recv) (hle : s.nchars ≤ s.textLimit) (hgood : s.malformed = false) :
    s.enterCheck.Inv where
  memory_wf := h.memory_wf
  memory_range := h.memory_range
  nchars_le := h.nchars_le
  idx_le := Nat.zero_le _
  bitcnt_le := Nat.zero_le _
  status_le := h.status_le
  status_zero _ := h.status_zero (by simp [hp])
  received := nofun
  frame _ := by
    obtain ⟨hpos, heven, hbad⟩ := State.malformed_false.1 hgood
    have htwo : 2 ≤ s.nchars := by omega
    refine ⟨heven, htwo, hle, hbad, Nat.zero_le _, fun i hi => h.received hp hbad i ?_⟩
    rwa [Nat.min_eq_left hle]
  engine_idle _ _ := rfl
  bit_reloaded := nofun

theorem endOfLine (hp : s.phase = .recv) : s.endOfLine.Inv := by
  have hidle := h.idle_of_ne_check (by simp [hp])
  rcases s.endOfLine_cases with ⟨-, he⟩ | ⟨-, -, he⟩ | ⟨hle, hgood, he⟩ <;> rw [he]
  · exact h.raise _ hidle
  · exact h.raise _ hidle
  · exact h.enterCheck hp hle hgood

/-! ### The frame checked and rendered -/

/-- A move of `idx` and `bitidx` along the complete frame, from CHECK or RENDER to one of them. -/
theorem moveAlongFrame {i : Nat} {j : BitVec 3} {p : Phase} (hp : s.phase = .check ∨ s.phase = .render)
    (hp' : p = .check ∨ p = .render) (hi : i ≤ s.len) (hidle : s.block = .frameChecker → p ≠ .check → s.bitcnt = 0)
    (hbit : p = .render → i = s.len → j = 7) : State.Inv { s with idx := i, bitidx := j, phase := p } where
  memory_wf := h.memory_wf
  memory_range := h.memory_range
  nchars_le := h.nchars_le
  idx_le := hi.trans (h.frame hp).len_le
  bitcnt_le := h.bitcnt_le
  status_le := h.status_le
  status_zero _ := h.status_zero (by rcases hp with hp | hp <;> simp [hp])
  received hr := absurd hr (by rcases hp' with rfl | rfl <;> simp)
  frame _ := (h.frame hp).congr rfl rfl rfl rfl hi
  engine_idle := hidle
  bit_reloaded := hbit

theorem absorbNext (b : Byte) (hp : s.phase = .check) (hlt : s.idx < s.len) : (s.absorbNext b).Inv := by
  have hengine : (s.engAbsorb b).Inv := h.engAbsorb b fun hidle => hidle.2 hp
  exact hengine.moveAlongFrame (i := s.idx + 1) (.inl hp) (.inl hp) hlt (fun _ hn => absurd hp hn) (by simp [hp])

theorem accept (hp : s.phase = .check) (hz : s.bitcnt = 0) : s.accept.Inv :=
  h.moveAlongFrame (.inl hp) (.inr rfl) (Nat.zero_le _) (fun _ _ => hz) fun _ _ => rfl

theorem nextBit (hp : s.phase = .render) (hlt : s.idx < s.len) : s.nextBit.Inv := by
  have hidle (hb : s.block = .frameChecker) (_ : s.phase ≠ .check) : s.bitcnt = 0 :=
    h.engine_idle hb (by simp [hp])
  unfold State.nextBit
  split
  · exact h.moveAlongFrame (.inr hp) (.inr hp) hlt hidle fun _ _ => rfl
  · exact h.moveAlongFrame (.inr hp) (.inr hp) hlt.le hidle fun _ he => absurd he hlt.ne

end State.Inv

/-- Settles O54, by the operation that the step runs. -/
theorem invariantKeptByStep : Obligations.InvariantKeptByStep := by
  unfold Obligations.InvariantKeptByStep
  intro s t h hstep
  have ha : s.advance.Inv := h.advance
  cases step_next hstep with
  | reset => exact State.start_inv _ _ _
  | engClr => exact ha.engClr
  | engBitstep _ _ _ hn | bitstep _ _ _ hn => exact ha.engBitstep hn
  | engAbsorb _ hb => exact ha.engAbsorb _ fun hidle => by simp [hb] at hidle
  | engIdle | waiting => exact ha
  | hexDigit v u _ _ hp _ _ _ _ hu => exact (ha.storeDigit hp hu).take _
  | otherChar _ _ hp => exact ((ha.markBad hp).countChar hp nofun).take _
  | lineFeed _ _ hp | endOfInput _ _ hp => exact (ha.endOfLine hp).take _
  | noInput _ _ hp => exact (ha.raise _ (ha.idle_of_ne_check (by simp [hp]))).take _
  | absorb b _ _ hp _ hlt => exact ha.absorbNext b hp hlt
  | accept _ _ hp hz => exact ha.accept hp hz
  | reject b _ _ _ hz => exact ha.raise _ fun _ => hz
  | bit b _ _ hp _ hlt => exact (ha.nextBit hp hlt).send _
  | newline _ _ hp => exact (ha.finishOk (ha.idle_of_ne_check (by simp [hp]))).send _

/-! ## Progress -/

/-- R82 to R84: a character consumed in RECV loads nothing. -/
theorem exists_exec_decodeChar {s : State} (c : Byte) (hp : s.phase = .recv) :
    ∃ t, exec (decodeChar c) s = .next t := by
  rcases decodeChar_cases c with ⟨r, hr, -, hop, -⟩ | ⟨-, hop, -⟩ | ⟨-, -, hop⟩ <;> rw [hop]
  · obtain ⟨u, -, hu⟩ := recvHex_recv r.1 r.2.1 hp
    exact ⟨_, (exec_hexRow r hr s).trans hu⟩
  · exact ⟨_, exec_recvLf_recv hp⟩
  · exact ⟨_, exec_recvOther_recv c hp⟩

/-- R85: nor does the end of input. -/
theorem exists_exec_recvEof {s : State} (hp : s.phase = .recv) : ∃ t, exec .recvEof s = .next t := by
  by_cases hz : s.nchars = 0
  · exact ⟨_, exec_recvEof_recv_of_zero hp hz⟩
  · exact ⟨_, exec_recvEof_recv_of_ne_zero hp hz⟩

theorem exists_step_recv {s : State} (hb : s.block = .frameChecker) (hp : s.phase = .recv) (hr : s.pins.rst = false) :
    ∃ t, step s = .next t := by
  rw [step_recv s hb hp hr]
  split_ifs
  · exact exists_exec_recvEof (s := s.advance) hp
  · exact exists_exec_decodeChar (s := s.advance) _ hp
  · exact ⟨_, rfl⟩

/-- R40: the cell that CHECK loads, and the trailer, are written. -/
theorem exists_step_check {s : State} (h : s.FrameReady) (hb : s.block = .frameChecker) (hp : s.phase = .check)
    (hr : s.pins.rst = false) : ∃ t, step s = .next t := by
  by_cases hz : s.bitcnt = 0
  · rcases h.idx_le.lt_or_eq with hlt | hidx
    · obtain ⟨b, hread⟩ := h.readable hlt
      exact ⟨_, step_checkAbsorb hb hp hr hz hlt hread⟩
    · obtain ⟨b, htrailer⟩ := h.trailer
      rw [step_checkVerify hb hp hr hz hidx htrailer]
      split <;> exact ⟨_, rfl⟩
  · exact ⟨_, step_checkBitstep hb hp hr hz⟩

/-- R40: the cell that RENDER loads is written. -/
theorem exists_step_render {s : State} (h : s.FrameReady) (hb : s.block = .frameChecker) (hp : s.phase = .render)
    (hr : s.pins.rst = false) : ∃ t, step s = .next t := by
  cases ho : s.pins.outReady with
  | false => exact ⟨_, step_paused hb hr (.inr ⟨hp, ho⟩)⟩
  | true =>
    rcases h.idx_le.lt_or_eq with hlt | hidx
    · obtain ⟨b, hread⟩ := h.readable hlt
      exact ⟨_, step_renderBit hb hp hr ho hlt hread⟩
    · exact ⟨_, step_renderLf hb hr hp ho hidx⟩

/-- An edge of the engine as a block of its own loads nothing. -/
theorem exists_step_engine {s : State} (hb : s.block = .engine) (hr : s.pins.rst = false) : ∃ t, step s = .next t := by
  rw [step_engine s hb hr]
  split
  · exact ⟨_, rfl⟩
  · rcases engineEdge_cases s.advance (if s.pins.engValid then s.advance.engAbsorb s.pins.engByte else s.advance) with
      ⟨-, he⟩ | ⟨-, he⟩ <;> exact ⟨_, he⟩

/-- Settles O55, block by block and phase by phase: only CHECK and RENDER load, and there the frame is complete. -/
theorem invariantNeverStops : Obligations.InvariantNeverStops := by
  unfold Obligations.InvariantNeverStops
  intro s h
  cases hr : s.pins.rst with
  | true => exact ⟨_, step_reset s hr⟩
  | false =>
    cases hb : s.block with
    | engine => exact exists_step_engine hb hr
    | frameChecker =>
      cases hp : s.phase with
      | recv => exact exists_step_recv hb hp hr
      | check => exact exists_step_check (h.frame (.inl hp)) hb hp hr
      | render => exact exists_step_render (h.frame (.inr hp)) hb hp hr
      | done => exact ⟨_, step_done s hb hp hr⟩

/-! ## The derived widths (R9, R32) -/

/-- A number below `n` fits `ceil(log2 n)` bits. -/
theorem lt_two_pow_ceilLog2 {k n : Nat} (h : k < n) : k < 2 ^ ceilLog2 n := by
  unfold ceilLog2
  split
  · omega
  · exact lt_of_le_of_lt (Nat.le_sub_one_of_lt h) Nat.lt_log2_self

/-- Settles O56: each register's bound in the invariant is below the number its width is derived from. -/
theorem registersFitTheirWidths : Obligations.RegistersFitTheirWidths := by
  unfold Obligations.RegistersFitTheirWidths
  refine ⟨fun s h => ⟨lt_two_pow_ceilLog2 ?_, lt_two_pow_ceilLog2 (Nat.lt_succ_of_le h.idx_le),
    fun cell hcell => lt_two_pow_ceilLog2 (h.memory_range cell hcell)⟩, by decide, by decide, by decide⟩
  have hle := h.nchars_le
  rw [State.textLimit] at hle
  omega

end Sys2Proof.Machine
end

section
/-! SUPPORT. The records of transferred symbols (spec/30_encoding.md R44, R46; log entry 3): what each edge adds to
them. -/

namespace Sys2Proof.Machine

open Sys2Proof

/-- R44: the symbol transferred at the coming edge, if one is. -/
def State.symTaken (s : State) : List Sym :=
  if s.inTransfer then [if s.pins.inEof then .eof else .char s.pins.inChar] else []

/-- R46: the character transferred at the coming edge, if one is. -/
def State.charSent (s : State) : List Byte := if s.outTransfer then s.outChar.toList else []

section
variable {s : State}

theorem State.inTransfer_of_recv (hr : s.pins.rst = false) (hp : s.phase = .recv) : s.inTransfer = s.pins.inValid := by
  simp [State.inTransfer, State.inReady, hr, hp]

theorem State.inTransfer_of_ne_recv (hp : s.phase ≠ .recv) : s.inTransfer = false := by
  simp [State.inTransfer, State.inReady, hp]

theorem State.outTransfer_of_render (hr : s.pins.rst = false) (hp : s.phase = .render) :
    s.outTransfer = s.pins.outReady := by
  simp [State.outTransfer, State.outValid, hr, hp]

theorem State.outTransfer_of_ne_render (hp : s.phase ≠ .render) : s.outTransfer = false := by
  simp [State.outTransfer, State.outValid, hp]

theorem State.symTaken_char (hr : s.pins.rst = false) (hp : s.phase = .recv) (hv : s.pins.inValid = true)
    (he : s.pins.inEof = false) : s.symTaken = [.char s.pins.inChar] := by
  simp [State.symTaken, State.inTransfer_of_recv hr hp, hv, he]

theorem State.symTaken_eof (hr : s.pins.rst = false) (hp : s.phase = .recv) (hv : s.pins.inValid = true)
    (he : s.pins.inEof = true) : s.symTaken = [.eof] := by
  simp [State.symTaken, State.inTransfer_of_recv hr hp, hv, he]

theorem State.symTaken_nil (h : s.inTransfer = false) : s.symTaken = [] := by
  simp [State.symTaken, h]

theorem State.charSent_nil (h : s.outTransfer = false) : s.charSent = [] := by
  simp [State.charSent, h]

theorem State.charSent_of_outChar {c : Byte} (hr : s.pins.rst = false) (hp : s.phase = .render)
    (ho : s.pins.outReady = true) (hc : s.outChar = some c) : s.charSent = [c] := by
  simp [State.charSent, State.outTransfer_of_render hr hp, ho, hc]

end

/-- R86: a line end changes `phase`, `status`, the engine and `idx` at most. -/
theorem State.endOfLine_frame (s : State) :
    s.endOfLine =
      { s with
        crc := s.endOfLine.crc
        bitcnt := s.endOfLine.bitcnt
        phase := s.endOfLine.phase
        idx := s.endOfLine.idx
        status := s.endOfLine.status } := by
  rcases s.endOfLine_cases with ⟨-, he⟩ | ⟨-, -, he⟩ | ⟨-, -, he⟩ <;> rw [he] <;> rfl

@[simp] theorem State.endOfLine_bad (s : State) : s.endOfLine.bad = s.bad := by rw [s.endOfLine_frame]
@[simp] theorem State.endOfLine_buf (s : State) : s.endOfLine.buf = s.buf := by rw [s.endOfLine_frame]
@[simp] theorem State.endOfLine_cfg (s : State) : s.endOfLine.cfg = s.cfg := by rw [s.endOfLine_frame]
@[simp] theorem State.endOfLine_block (s : State) : s.endOfLine.block = s.block := by rw [s.endOfLine_frame]
@[simp] theorem State.endOfLine_edges (s : State) : s.endOfLine.edges = s.edges := by rw [s.endOfLine_frame]
@[simp] theorem State.endOfLine_taken (s : State) : s.endOfLine.taken = s.taken := by rw [s.endOfLine_frame]
@[simp] theorem State.endOfLine_sent (s : State) : s.endOfLine.sent = s.sent := by rw [s.endOfLine_frame]

/-- R40: with a complete frame the character offered in RENDER has a value. -/
theorem State.FrameReady.exists_outChar {s : State} (h : s.FrameReady) (hp : s.phase = .render) :
    ∃ c, s.outChar = some c := by
  rcases h.idx_le.lt_or_eq with hlt | hidx
  · obtain ⟨b, hread⟩ := h.readable hlt
    exact ⟨_, State.outChar_of_bit hp hlt hread⟩
  · exact ⟨_, State.outChar_of_newline hp hidx⟩

/-- R44, R46: what an edge without reset adds to the records. -/
theorem step_records {s t : State} (h : s.Inv) (hb : s.block = .frameChecker) (hr : s.pins.rst = false)
    (hstep : step s = .next t) : t.taken = s.taken ++ s.symTaken ∧ t.sent = s.sent ++ s.charSent := by
  have hnot_render (hp : s.phase ≠ .render) : s.charSent = [] := State.charSent_nil (State.outTransfer_of_ne_render hp)
  have hnot_recv (hp : s.phase ≠ .recv) : s.symTaken = [] := State.symTaken_nil (State.inTransfer_of_ne_recv hp)
  cases step_next hstep with
  | reset hrst => simp [hr] at hrst
  | engClr _ he | engBitstep _ he | engAbsorb _ he | engIdle _ he => simp [hb] at he
  | hexDigit v u _ _ hp hv he _ _ hu =>
    have hu' : u.taken = s.taken ∧ u.sent = s.sent := by rw [State.storeDigit_frame hu]; exact ⟨rfl, rfl⟩
    simp [State.symTaken_char hr hp hv he, hnot_render (by simp [hp]), hu']
  | otherChar _ _ hp hv he => simp [State.symTaken_char hr hp hv he, hnot_render (by simp [hp])]
  | lineFeed _ _ hp hv he hc =>
    simp [State.symTaken_char hr hp hv he, hnot_render (by simp [hp]), hc]
  | noInput _ _ hp hv he | endOfInput _ _ hp hv he =>
    simp [State.symTaken_eof hr hp hv he, hnot_render (by simp [hp])]
  | absorb _ _ _ hp | bitstep _ _ hp | accept _ _ hp | reject _ _ _ hp =>
    simp [hnot_recv (by simp [hp]), hnot_render (by simp [hp])]
  | bit b _ _ hp ho hlt hread =>
    simp [hnot_recv (by simp [hp]), State.charSent_of_outChar hr hp ho (State.outChar_of_bit hp hlt hread)]
  | newline _ _ hp ho hidx =>
    simp [hnot_recv (by simp [hp]), State.charSent_of_outChar hr hp ho (State.outChar_of_newline hp hidx)]
  | waiting _ _ hwait =>
    rcases hwait with ⟨hp, hv⟩ | ⟨hp, -⟩ | ⟨hp, ho | hgt⟩ | hp
    · simp [State.symTaken_nil ((State.inTransfer_of_recv hr hp).trans hv), hnot_render (by simp [hp])]
    · simp [hnot_recv (by simp [hp]), hnot_render (by simp [hp])]
    · simp [hnot_recv (by simp [hp]), State.charSent_nil ((State.outTransfer_of_render hr hp).trans ho)]
    · exact absurd (h.frame (.inr hp)).idx_le (Nat.not_le.2 hgt)
    · simp [hnot_recv (by simp [hp]), hnot_render (by simp [hp])]

/-- Settles O48: the records grow by what is transferred, and an offered character has a value. -/
theorem transfersAreRecorded : Obligations.TransfersAreRecorded := by
  unfold Obligations.TransfersAreRecorded
  intro s t h hb hstep
  refine ⟨fun hr => ?_, fun hr => ?_⟩
  · rw [step_reset_start hr] at hstep
    cases hstep
    exact ⟨rfl, rfl⟩
  · obtain ⟨htaken, hsent⟩ := step_records h hb hr hstep
    refine ⟨fun hin => ?_, fun hin => ?_, fun hout => ?_, fun hout => ?_⟩
    · rw [htaken, State.symTaken_nil hin, List.append_nil]
    · rw [htaken, State.symTaken, if_pos hin]
    · rw [hsent, State.charSent_nil hout, List.append_nil]
    · have hp : s.phase = .render := by
        by_contra hp
        simp [State.outTransfer_of_ne_render hp] at hout
      obtain ⟨c, hc⟩ := (h.frame (.inr hp)).exists_outChar hp
      exact ⟨c, hc, by rw [hsent, State.charSent, if_pos hout, hc, Option.toList_some]⟩

end Sys2Proof.Machine
end

section
/-! SUPPORT. The fail-closed policy (spec/60_exceptions.md R105, spec/70_reset_and_hazards.md R120): no output symbol is
sent before the frame is accepted. -/

namespace Sys2Proof.Machine

open Sys2Proof

theorem State.FailClosed.of_sent_nil {s : State} (h : s.sent = []) : s.FailClosed := ⟨fun _ => h, fun _ _ => h⟩

/-- The policy looks at the phase, the status and the record alone. -/
theorem State.FailClosed.congr {s t : State} (h : s.FailClosed) (hp : t.phase = s.phase) (hst : t.status = s.status)
    (hsent : t.sent = s.sent) : t.FailClosed := by
  unfold State.FailClosed
  rw [hp, hst, hsent]
  exact h

/-- Settles O57: a step of RECV or CHECK sends nothing, and RENDER ends with status 0. -/
theorem failClosedKeptByStep : Obligations.FailClosedKeptByStep := by
  unfold Obligations.FailClosedKeptByStep
  intro s t h hstep
  obtain ⟨hbefore, -⟩ := id h
  cases step_next hstep with
  | reset => exact .of_sent_nil rfl
  | engClr | engBitstep | engAbsorb | engIdle | waiting | bitstep | absorb => exact h.congr rfl rfl rfl
  | hexDigit v u _ _ hp _ _ _ _ hu =>
    have hsent : u.sent = s.sent := by rw [State.storeDigit_frame hu, State.advance_sent]
    exact .of_sent_nil (hsent.trans (hbefore (.inl hp)))
  | otherChar _ _ hp | noInput _ _ hp => exact .of_sent_nil (hbefore (.inl hp))
  | lineFeed _ _ hp | endOfInput _ _ hp =>
    exact .of_sent_nil (s.advance.endOfLine_sent.trans (hbefore (.inl hp)))
  | accept _ _ hp | reject _ _ _ hp => exact .of_sent_nil (hbefore (.inr hp))
  | bit _ _ _ hp => exact ⟨fun hp' => by simp [hp] at hp', fun hp' => by simp [hp] at hp'⟩
  | newline => exact ⟨nofun, fun _ hst => absurd rfl hst⟩

end Sys2Proof.Machine
end

section
/-! SUPPORT. The agreement of the step machine with `decode_frame` (spec/41_frame_decoder.md R96): phase by phase, what
the registers, the buffer and the records say about the line transferred so far, and that every step keeps it. -/

namespace Sys2Proof.Machine

open Sys2Proof

/-! ## One pair more (R51) -/

/-- A text of whole pairs, and one more pair after it. -/
theorem hexPairs_append_pair {text bytes : List Byte} {a c : Byte} (heven : text.length % 2 = 0) :
    hexPairs (text ++ [a, c]) = some bytes ↔
      ∃ init x y, hexPairs text = some init ∧ hexval a = some x ∧ hexval c = some y ∧
        bytes = init ++ [assembleByte x y] := by
  induction text using List.twoStepInduction generalizing bytes with
  | nil => simp
  | singleton d => simp at heven
  | cons_cons d e rest ih _ =>
    have hrest : rest.length % 2 = 0 := by simpa [Nat.add_assoc] using heven
    simp only [List.cons_append, hexPairs_cons_cons_eq_some, ih hrest]
    constructor
    · rintro ⟨u, v, tail, hu, hv, ⟨init, x, y, hinit, hx, hy, rfl⟩, rfl⟩
      exact ⟨_, x, y, ⟨u, v, init, hu, hv, hinit, rfl⟩, hx, hy, rfl⟩
    · rintro ⟨init, x, y, ⟨u, v, tail, hu, hv, htail, rfl⟩, hx, hy, rfl⟩
      exact ⟨u, v, _, hu, hv, ⟨tail, x, y, htail, hx, hy, rfl⟩, rfl⟩

/-- A store behind the bytes held is one byte more held. -/
theorem State.holds.setCell {s : State} {bytes : List Byte} (h : s.holds bytes) (b : Byte) :
    (s.setCell bytes.length b).holds (bytes ++ [b]) := by
  intro i c hc
  rw [State.setCell_buf, Memory.lookup_insert]
  split
  next hi => simpa [hi] using hc
  next hi =>
    have hlt : i < bytes.length := by
      have hle := (List.getElem?_eq_some_iff.1 hc).1
      rw [List.length_append, List.length_singleton] at hle
      omega
    rw [List.getElem?_append_left hlt] at hc
    exact h i c hc

/-! ## The outcome of a line (R73, R96) -/

section
variable {maxBytes : Nat} {text : List Byte} {ended : Sym}

theorem trimLine_of_not_mem (hlf : charLF ∉ text) : trimLine text = text :=
  trimLine_of_getLast?_ne fun h => hlf (List.mem_of_getLast? h)

theorem lineOutcome_of_ne (h : ¬(text = [] ∧ ended = .eof)) :
    lineOutcome maxBytes text ended = frameOutcome maxBytes text :=
  if_neg h

theorem frameOutcome_of_error {e : DecodeFrameError} (h : decodeFrame maxBytes text = .error e) :
    frameOutcome maxBytes text = (e.kind.code, []) := by
  simp only [frameOutcome, h]

theorem frameOutcome_of_ok {out : List Byte} (h : decodeFrame maxBytes text = .ok out) :
    frameOutcome maxBytes text = (statusOk, out ++ [charLF]) := by
  simp only [frameOutcome, h]

/-- R78, R79: what the function answers on a text that decodes. -/
theorem decodeFrame_of_validText {bytes : List Byte} (hlf : charLF ∉ text) (hvalid : validText maxBytes text bytes) :
    decodeFrame maxBytes text =
      if acceptFrame bytes then .ok (renderBytes bytes) else .error .integrityMismatch := by
  obtain ⟨hle, hbytes, hne⟩ := hvalid
  rw [← trimLine_of_not_mem hlf] at hle hbytes
  rw [decodeFrame_of_bytes hle hbytes hne, acceptFrame, renderBytes]
  simp only [beq_iff_eq]

theorem validText.ne_nil {bytes : List Byte} (hvalid : validText maxBytes text bytes) : text ≠ [] := by
  obtain ⟨-, hbytes, hne⟩ := hvalid
  rintro rfl
  cases hbytes
  exact hne rfl

theorem lineOutcome_of_validText {bytes : List Byte} (hlf : charLF ∉ text) (hvalid : validText maxBytes text bytes) :
    lineOutcome maxBytes text ended =
      if acceptFrame bytes then (statusOk, renderBytes bytes ++ [charLF])
      else (ErrorKind.integrityMismatch.code, []) := by
  rw [lineOutcome_of_ne fun h => hvalid.ne_nil h.1]
  have hdecode := decodeFrame_of_validText hlf hvalid
  cases haccept : acceptFrame bytes <;> rw [haccept] at hdecode
  · exact frameOutcome_of_error hdecode
  · exact frameOutcome_of_ok hdecode

end

/-! ## RECV: the text so far -/

/-- The pairs of `text` stand in the buffer, and its last digit is held if it stands alone. -/
def State.storedText (s : State) (text : List Byte) : Prop :=
  (∀ bytes, hexPairs (text.take (2 * (text.length / 2))) = some bytes → s.holds bytes) ∧
  (text.length % 2 = 1 → text.getLast?.bind hexval = some s.hi)

theorem take_pairs_of_even {text : List Byte} (h : text.length % 2 = 0) :
    text.take (2 * (text.length / 2)) = text :=
  List.take_of_length_le (by omega)

/-- R82: the first digit of a pair is held. -/
theorem State.storedText.holdDigit {s : State} {text : List Byte} {c : Byte} {v : Nibble} (h : s.storedText text)
    (heven : text.length % 2 = 0) (hc : hexval c = some v) : (s.holdDigit v).storedText (text ++ [c]) := by
  obtain ⟨hpairs, -⟩ := h
  rw [take_pairs_of_even heven] at hpairs
  refine ⟨fun bytes hbytes => hpairs bytes ?_, fun _ => by simpa using hc⟩
  have hlen : 2 * ((text ++ [c]).length / 2) = text.length := by
    rw [List.length_append, List.length_singleton]
    omega
  rwa [hlen, List.take_left] at hbytes

/-- R82: the second digit completes the byte stored at `nchars >> 1`. -/
theorem State.storedText.setCell {s : State} {text : List Byte} {c : Byte} {v : Nibble} (h : s.storedText text)
    (hodd : text.length % 2 = 1) (hc : hexval c = some v) :
    (s.setCell (text.length / 2) (assembleByte s.hi v)).storedText (text ++ [c]) := by
  obtain ⟨hpairs, hheld⟩ := h
  have hlast := hheld hodd
  obtain ⟨init, d, rfl⟩ : ∃ init d, text = init ++ [d] :=
    ⟨_, _, (List.dropLast_append_getLast (by rintro rfl; simp at hodd)).symm⟩
  have hinit : init.length % 2 = 0 := by
    rw [List.length_append, List.length_singleton] at hodd
    omega
  have hhalf : (init ++ [d]).length / 2 = init.length / 2 := by
    rw [List.length_append, List.length_singleton]
    omega
  have hwhole : (init ++ [d] ++ [c]).length % 2 = 0 := by simpa [Nat.add_assoc] using hinit
  refine ⟨fun bytes hbytes => ?_, fun h => absurd (hwhole.symm.trans h) Nat.zero_ne_one⟩
  rw [take_pairs_of_even hwhole, List.append_assoc, List.singleton_append, hexPairs_append_pair hinit] at hbytes
  obtain ⟨front, x, y, hfront, hx, hy, rfl⟩ := hbytes
  obtain rfl : x = s.hi := by simpa [hx] using hlast
  obtain rfl : y = v := Option.some.inj (hy.symm.trans hc)
  have hlen : init.length / 2 = front.length := by
    have htwice := hexPairs_length hfront
    omega
  have hfront' : hexPairs ((init ++ [d]).take (2 * ((init ++ [d]).length / 2))) = some front := by
    have heven : 2 * (init.length / 2) = init.length := by omega
    rwa [hhalf, heven, List.take_left]
  rw [hhalf, hlen]
  exact (hpairs front hfront').setCell _

/-- One character more: what is stored by now is the text with it, unless a character so far was bad or the text is too
long. -/
theorem State.receivedText.append {s u : State} {text : List Byte} {c : Byte} (h : s.receivedText text)
    (hc : c ≠ charLF) (htaken : u.taken = s.taken) (hn : u.nchars = s.nchars) (hcfg : u.cfg = s.cfg)
    (hsent : u.sent = s.sent) (hbad : u.bad = (s.bad || !isHexDigit c))
    (hstored : u.bad = false → text.length < s.textLimit → u.storedText (text ++ [c])) :
    (u.countChar.take (.char c)).receivedText (text ++ [c]) := by
  obtain ⟨⟨htk, hlf⟩, hcount, hany, hnone, -⟩ := h
  have hlimit : u.textLimit = s.textLimit := by rw [State.textLimit, State.textLimit, hcfg]
  have hcount' : (u.countChar.take (.char c)).nchars = min (text ++ [c]).length (s.textLimit + 1) := by
    rw [State.take_nchars, State.countChar_nchars, hn, hlimit, hcount, List.length_append, List.length_singleton]
    omega
  refine ⟨⟨?_, ?_⟩, ?_, ?_, hsent.trans hnone, fun hgood hle => hstored hgood ?_⟩
  · simp [htaken, htk]
  · simp [hlf, hc.symm]
  · rw [hcount']
    exact congrArg (fun n => min (text ++ [c]).length (n + 1)) hlimit.symm
  · simp [hbad, hany]
  · have hle : (u.countChar.take (.char c)).nchars ≤ u.textLimit := hle
    rw [hcount', hlimit, List.length_append, List.length_singleton] at hle
    omega

theorem State.receivedText.stored {s : State} {text : List Byte} (h : s.receivedText text) (hgood : s.bad = false)
    (hle : text.length ≤ s.textLimit) : s.nchars = text.length ∧ s.storedText text := by
  obtain ⟨-, hcount, -, -, hstored⟩ := h
  have hn : s.nchars = text.length := by omega
  exact ⟨hn, hstored hgood (hn ▸ hle)⟩

/-- R82: a digit consumed. -/
theorem State.receivedText.digit {s u : State} {text : List Byte} {c : Byte} {v : Nibble} (h : s.receivedText text)
    (hc : c ≠ charLF) (hv : hexval c = some v) (hu : s.storeDigit v = .ok u) :
    (u.countChar.take (.char c)).receivedText (text ++ [c]) := by
  have hframe := State.storeDigit_frame hu
  have hbad : u.bad = s.bad := by rw [hframe]
  refine h.append hc (by rw [hframe]) (by rw [hframe]) (by rw [hframe]) (by rw [hframe]) ?_ fun hgood hlt => ?_
  · simp [hbad, isHexDigit, hv]
  · obtain ⟨hn, hstored⟩ := h.stored (hbad ▸ hgood) hlt.le
    rcases s.storeDigit_cases v with ⟨-, heven, he⟩ | ⟨-, hodd, -, he⟩ | ⟨hle, -⟩
    · cases he.symm.trans hu
      exact hstored.holdDigit (hn ▸ heven) hv
    · cases he.symm.trans hu
      rw [State.storeAddr, hn]
      exact hstored.setCell (hn ▸ hodd) hv
    · exact absurd (hn ▸ hlt) (Nat.not_lt.2 hle)

/-- R83: a character of RECV.OTHER consumed. -/
theorem State.receivedText.other {s : State} {text : List Byte} {c : Byte} (h : s.receivedText text) (hc : c ≠ charLF)
    (hv : hexval c = none) : (s.markBad.countChar.take (.char c)).receivedText (text ++ [c]) :=
  h.append (u := s.markBad) hc rfl rfl rfl rfl (by simp [isHexDigit, hv]) nofun

/-! ## The end of the line (R86) -/

section
variable {s : State} {text : List Byte} {ended : Sym} (h : s.receivedText text)
include h

theorem State.receivedText.lineEnded (x : Sym) (hx : x.endsLine) : (s.take x).lineEnded text x := by
  obtain ⟨⟨htaken, hlf⟩, -⟩ := h
  exact ⟨congrArg (· ++ [x]) htaken, hlf, hx⟩

theorem State.receivedText.sent_nil : s.sent = [] := by
  obtain ⟨-, -, -, hsent, -⟩ := h
  exact hsent

theorem State.receivedText.nchars_eq_zero_iff : s.nchars = 0 ↔ text = [] := by
  obtain ⟨-, hcount, -⟩ := h
  rw [← List.length_eq_zero_iff]
  omega

theorem State.receivedText.outcome_overLimit (hne : ¬(text = [] ∧ ended = .eof)) (hlt : s.textLimit < s.nchars) :
    lineOutcome s.cfg.maxBytes text ended = (ErrorKind.resourceLimitExceeded.code, []) := by
  obtain ⟨⟨-, hlf⟩, hcount, -⟩ := h
  rw [lineOutcome_of_ne hne]
  refine frameOutcome_of_error (decodeFrame_of_tooLong ?_)
  rw [trimLine_of_not_mem hlf]
  change s.textLimit < text.length
  omega

theorem State.receivedText.outcome_malformed (hne : ¬(text = [] ∧ ended = .eof)) (hle : s.nchars ≤ s.textLimit)
    (hbad : s.malformed = true) : lineOutcome s.cfg.maxBytes text ended = (ErrorKind.malformedFrame.code, []) := by
  obtain ⟨⟨-, hlf⟩, hcount, hany, -⟩ := h
  have hn : s.nchars = text.length := by omega
  rw [lineOutcome_of_ne hne]
  refine frameOutcome_of_error (decodeFrame_of_malformed ?_ ?_) <;> rw [trimLine_of_not_mem hlf]
  · exact hn ▸ hle
  · rw [State.malformed_true, hn, hany] at hbad
    simpa using hbad

/-- R17, R40: a text that is entered into CHECK decodes, and its bytes stand in the buffer. -/
theorem State.receivedText.exists_bytes (hle : s.nchars ≤ s.textLimit) (hgood : s.malformed = false) :
    ∃ bytes, validText s.cfg.maxBytes text bytes ∧ s.len = bytes.length ∧ s.holds bytes := by
  obtain ⟨hpos, heven, hbad⟩ := State.malformed_false.1 hgood
  have hne : text ≠ [] := mt h.nchars_eq_zero_iff.2 hpos
  obtain ⟨-, hcount, hany, -⟩ := id h
  obtain ⟨hn, hpairs, -⟩ := h.stored hbad (by omega)
  rw [hn] at heven
  have hdigits : ∀ c ∈ text, isHexDigit c = true := by
    rw [hbad] at hany
    simpa using hany.symm
  obtain ⟨bytes, hbytes⟩ := exists_hexPairs_of_even heven hdigits
  have hlen := hexPairs_length hbytes
  rw [take_pairs_of_even heven] at hpairs
  refine ⟨bytes, ⟨hn ▸ hle, hbytes, ?_⟩, ?_, hpairs bytes hbytes⟩
  · exact mt (hexPairs_bytes_eq_nil_iff hbytes).1 (mt List.length_eq_zero_iff.1 hne)
  · rw [State.len, hn]
    omega

end

/-! ## The agreement, phase by phase -/

section
variable {s : State}

theorem State.agrees_recv (hp : s.phase = .recv) : s.Agrees ↔ ∃ text, s.receivedText text := by
  rw [State.Agrees, hp]

theorem State.agrees_check (hp : s.phase = .check) :
    s.Agrees ↔ ∃ text ended bytes, s.checkingFrame text ended bytes := by
  rw [State.Agrees, hp]

theorem State.agrees_render (hp : s.phase = .render) :
    s.Agrees ↔ ∃ text ended bytes, s.renderingFrame text ended bytes := by
  rw [State.Agrees, hp]

theorem State.agrees_done (hp : s.phase = .done) : s.Agrees ↔ ∃ text ended, s.finishedLine text ended := by
  rw [State.Agrees, hp]

end

theorem State.start_agrees (cfg : Config) (block : Block) (edges : List Pins) :
    (State.start cfg block edges).Agrees := by
  refine (State.agrees_recv rfl).2 ⟨[], ⟨rfl, List.not_mem_nil⟩, rfl, rfl, rfl, fun _ _ => ⟨fun bytes h => ?_, nofun⟩⟩
  cases h
  exact nofun

/-- R86, R96: the three outcomes of a line end are those of `decode_frame`, or CHECK's start. -/
theorem State.receivedText.endOfLine {s : State} {text : List Byte} {x : Sym} (h : s.receivedText text)
    (hx : x.endsLine) (hne : ¬(text = [] ∧ x = .eof)) : (s.endOfLine.take x).Agrees := by
  have hended := h.lineEnded x hx
  have hsent := h.sent_nil
  rcases s.endOfLine_cases with ⟨hlt, he⟩ | ⟨hle, hbad, he⟩ | ⟨hle, hgood, he⟩ <;> rw [he]
  · refine (State.agrees_done rfl).2 ⟨text, x, hended, ?_⟩
    exact (congrArg (Prod.mk _) hsent).trans (h.outcome_overLimit hne hlt).symm
  · refine (State.agrees_done rfl).2 ⟨text, x, hended, ?_⟩
    exact (congrArg (Prod.mk _) hsent).trans (h.outcome_malformed hne hle hbad).symm
  · obtain ⟨bytes, hvalid, hlen, hholds⟩ := h.exists_bytes hle hgood
    exact (State.agrees_check rfl).2 ⟨text, x, bytes, hended, hvalid, hlen, hholds, Nat.zero_le _, rfl, hsent⟩

/-- R85, R96: no input at all. -/
theorem State.receivedText.noInput {s : State} {text : List Byte} (h : s.receivedText text) (hz : s.nchars = 0) :
    ((s.raise .inputUnavailable).take .eof).Agrees := by
  obtain rfl := h.nchars_eq_zero_iff.1 hz
  have hsent := h.sent_nil
  exact (State.agrees_done rfl).2 ⟨[], .eof, h.lineEnded .eof (.inl rfl), congrArg (Prod.mk _) hsent⟩

/-! ## CHECK -/

/-- A loaded byte of the frame is the byte of its address. -/
theorem State.holds.getElem?_of_memRead {s : State} {bytes : List Byte} (h : s.holds bytes) {a : Nat} {b : Byte}
    (ha : a < bytes.length) (hread : s.memRead a = .ok b) : bytes[a]? = some b := by
  obtain ⟨-, hb⟩ := State.memRead_ok.1 hread
  have hcell := List.getElem?_eq_getElem ha
  rw [hcell, ← hb, h a _ hcell]

theorem validText.length_le {maxBytes : Nat} {text bytes : List Byte} (h : validText maxBytes text bytes) :
    bytes.length ≤ maxBytes := by
  obtain ⟨hle, hbytes, -⟩ := h
  have hlen := hexPairs_length hbytes
  omega

section
variable {s : State} {text bytes : List Byte} {ended : Sym} (h : s.checkingFrame text ended bytes)
include h

/-- R87: the checksum owed is that of one byte more. -/
theorem State.checkingFrame.absorb {b : Byte} (hz : s.bitcnt = 0) (hlt : s.idx < s.len)
    (hread : s.memRead s.idx = .ok b) : (s.absorbNext b).checkingFrame text ended bytes := by
  obtain ⟨hended, hvalid, hlen, hholds, -, hcrc, hsent⟩ := h
  have hidx : s.idx < bytes.length := hlen ▸ hlt
  refine ⟨hended, hvalid, hlen, hholds, hidx, ?_, hsent⟩
  rw [hz] at hcrc
  have hcrc' : s.crc = crc8 (bytes.take s.idx) := hcrc
  rw [State.absorbNext_idx, List.take_add_one, hholds.getElem?_of_memRead hidx hread, Option.toList_some,
    crc8_append_singleton, ← hcrc']
  rfl

/-- R93: a bit step done is one less owed. -/
theorem State.checkingFrame.bitstep (hn : s.bitcnt ≠ 0) : s.engBitstep.checkingFrame text ended bytes := by
  obtain ⟨hended, hvalid, hlen, hholds, hidx, hcrc, hsent⟩ := h
  refine ⟨hended, hvalid, hlen, hholds, hidx, ?_, hsent⟩
  have hcnt : s.bitcnt.toNat = s.engBitstep.bitcnt.toNat + 1 := by
    rw [State.engBitstep_bitcnt]
    bv_omega
  rwa [hcnt, bitsteps_succ] at hcrc

/-- R88: CHECK.VERIFY compares the checksum of the whole frame with its last byte. -/
theorem State.checkingFrame.verify {b : Byte} (hz : s.bitcnt = 0) (hidx : s.idx = s.len)
    (htrailer : s.trailer = .ok b) :
    s.crc = b ↔ acceptFrame bytes = true := by
  obtain ⟨-, hvalid, hlen, hholds, -, hcrc, -⟩ := h
  obtain ⟨-, -, hne⟩ := id hvalid
  have hwhole : bytes.take s.idx = bytes := List.take_of_length_le (by omega)
  rw [hz, hwhole] at hcrc
  have hcrc' : s.crc = crc8 bytes := hcrc
  rw [State.trailer_of_holds hne hlen hvalid.length_le hholds] at htrailer
  cases htrailer
  rw [acceptFrame_iff hne, hcrc']

theorem State.checkingFrame.accept (haccept : acceptFrame bytes = true) : s.accept.renderingFrame text ended bytes := by
  obtain ⟨hended, hvalid, hlen, hholds, -, -, hsent⟩ := h
  exact ⟨hended, hvalid, hlen, hholds, Nat.zero_le _, haccept, hsent⟩

theorem State.checkingFrame.reject (hreject : ¬acceptFrame bytes = true) :
    (s.raise .integrityMismatch).finishedLine text ended := by
  obtain ⟨hended, hvalid, -, -, -, -, hsent⟩ := h
  obtain ⟨-, hlf, -⟩ := id hended
  refine ⟨hended, ?_⟩
  rw [State.raise_cfg, lineOutcome_of_validText hlf hvalid, if_neg hreject]
  exact congrArg (Prod.mk _) hsent

end

/-! ## RENDER -/

section
variable {s : State} {text bytes : List Byte} {ended : Sym} (h : s.renderingFrame text ended bytes)
include h

/-- R89: the character sent is the next one of the bit string. -/
theorem State.renderingFrame.bit {b : Byte} (hlt : s.idx < s.len) (hread : s.memRead s.idx = .ok b) :
    (s.nextBit.send (bitChar (s.bitOf b))).renderingFrame text ended bytes := by
  obtain ⟨hended, hvalid, hlen, hholds, -, haccept, hsent⟩ := h
  have hidx : s.idx < bytes.length := hlen ▸ hlt
  have hbit : s.bitidx.toNat ≤ 7 := Nat.le_of_lt_succ s.bitidx.isLt
  have hbyte : bytes[(8 * s.idx + (7 - s.bitidx.toNat)) / 8]? = some b := by
    have hdiv : (8 * s.idx + (7 - s.bitidx.toNat)) / 8 = s.idx := by omega
    rw [hdiv, hholds.getElem?_of_memRead hidx hread]
  have hpos : 7 - (8 * s.idx + (7 - s.bitidx.toNat)) % 8 = s.bitidx.toNat := by omega
  have hsent' : s.sent ++ [bitChar (s.bitOf b)] =
      (renderBytes bytes).take (8 * s.idx + (7 - s.bitidx.toNat) + 1) := by
    rw [List.take_add_one, renderBytes, flatMap_bits8_getElem? hbyte, hpos, hsent]
    rfl
  rw [s.nextBit_eq]
  refine ⟨hended, hvalid, hlen, hholds, ?_, haccept, hsent'.trans (congrArg (List.take · _) ?_)⟩
  · change (if s.bitidx = 0 then s.idx + 1 else s.idx) ≤ bytes.length
    split <;> omega
  · change _ = 8 * (if s.bitidx = 0 then s.idx + 1 else s.idx) + (7 - (if s.bitidx = 0 then 7 else s.bitidx - 1).toNat)
    by_cases hz : s.bitidx = 0
    · rw [if_pos hz, if_pos hz, hz]
      rfl
    · rw [if_neg hz, if_neg hz]
      bv_omega

/-- R91, R92: at the newline the whole bit string is sent. -/
theorem State.renderingFrame.newline (hidx : s.idx = s.len) : (s.finishOk.send charLF).finishedLine text ended := by
  obtain ⟨hended, hvalid, hlen, -, -, haccept, hsent⟩ := h
  obtain ⟨-, hlf, -⟩ := id hended
  refine ⟨hended, ?_⟩
  change (statusOk, s.sent ++ [charLF]) = lineOutcome s.cfg.maxBytes text ended
  rw [lineOutcome_of_validText hlf hvalid, if_pos haccept, hsent, List.take_of_length_le]
  rw [renderBytes, flatMap_bits8_length]
  omega

end

/-- Settles O58, phase by phase, by the operation that the step runs. -/
theorem agreementKeptByStep : Obligations.AgreementKeptByStep := by
  unfold Obligations.AgreementKeptByStep
  intro s t hb h hstep
  have hrecv (hp : s.phase = .recv) : ∃ text, s.advance.receivedText text := (State.agrees_recv hp).1 h
  have hcheck (hp : s.phase = .check) : ∃ text ended bytes, s.advance.checkingFrame text ended bytes :=
    (State.agrees_check hp).1 h
  have hrender (hp : s.phase = .render) : ∃ text ended bytes, s.advance.renderingFrame text ended bytes :=
    (State.agrees_render hp).1 h
  cases step_next hstep with
  | reset => exact State.start_agrees _ _ _
  | engClr _ he | engBitstep _ he | engAbsorb _ he | engIdle _ he => simp [hb] at he
  | hexDigit v u _ _ hp _ _ hc hv hu =>
    obtain ⟨text, htext⟩ := hrecv hp
    have hphase : u.phase = .recv := by rw [State.storeDigit_frame hu]; exact hp
    exact (State.agrees_recv (s := u.countChar.take _) hphase).2 ⟨_, htext.digit hc hv hu⟩
  | otherChar _ _ hp _ _ hc hv =>
    obtain ⟨text, htext⟩ := hrecv hp
    exact (State.agrees_recv (s := s.advance.markBad.countChar.take _) hp).2 ⟨_, htext.other hc hv⟩
  | lineFeed _ _ hp =>
    obtain ⟨text, htext⟩ := hrecv hp
    exact htext.endOfLine (.inr rfl) (by simp)
  | noInput _ _ hp _ _ hz =>
    obtain ⟨text, htext⟩ := hrecv hp
    exact htext.noInput hz
  | endOfInput _ _ hp _ _ hn =>
    obtain ⟨text, htext⟩ := hrecv hp
    exact htext.endOfLine (.inl rfl) fun hnil => hn (htext.nchars_eq_zero_iff.2 hnil.1)
  | absorb b _ _ hp hz hlt hread =>
    obtain ⟨text, ended, bytes, hframe⟩ := hcheck hp
    exact (State.agrees_check (s := s.advance.absorbNext b) hp).2 ⟨text, ended, bytes, hframe.absorb hz hlt hread⟩
  | bitstep _ _ hp hn =>
    obtain ⟨text, ended, bytes, hframe⟩ := hcheck hp
    exact (State.agrees_check (s := s.advance.engBitstep) hp).2 ⟨text, ended, bytes, hframe.bitstep hn⟩
  | accept _ _ hp hz hidx htrailer =>
    obtain ⟨text, ended, bytes, hframe⟩ := hcheck hp
    exact (State.agrees_render rfl).2 ⟨text, ended, bytes, hframe.accept ((hframe.verify hz hidx htrailer).1 rfl)⟩
  | reject b _ _ hp hz hidx htrailer hne =>
    obtain ⟨text, ended, bytes, hframe⟩ := hcheck hp
    exact (State.agrees_done rfl).2 ⟨text, ended, hframe.reject (mt (hframe.verify hz hidx htrailer).2 hne)⟩
  | bit b _ _ hp _ hlt hread =>
    obtain ⟨text, ended, bytes, hframe⟩ := hrender hp
    have hphase : s.advance.nextBit.phase = .render := s.advance.nextBit_phase.trans hp
    exact (State.agrees_render (s := s.advance.nextBit.send _) hphase).2 ⟨text, ended, bytes, hframe.bit hlt hread⟩
  | newline _ _ hp _ hidx =>
    obtain ⟨text, ended, bytes, hframe⟩ := hrender hp
    exact (State.agrees_done rfl).2 ⟨text, ended, hframe.newline hidx⟩
  | waiting => exact h

/-- Settles O53, each at the start of an invocation; State.reset is one. -/
theorem invariantsHoldAtReset : Obligations.InvariantsHoldAtReset := by
  unfold Obligations.InvariantsHoldAtReset
  have hstart (cfg : Config) (block : Block) (edges : List Pins) : (State.start cfg block edges).Inv ∧
      (State.start cfg block edges).FailClosed ∧ (State.start cfg block edges).Agrees :=
    ⟨State.start_inv cfg block edges, .of_sent_nil rfl, State.start_agrees cfg block edges⟩
  exact ⟨hstart, hstart _ _ _⟩

end Sys2Proof.Machine
end

section
/-! SUPPORT. What the operations leave unchanged (spec/20_memory.md R33, R39 to R41; spec/41_frame_decoder.md R82 to
R93), what a disabled operation does (log entries 8, 9), and where a load stops (log entries 5, 6). -/

namespace Sys2Proof.Machine

open Sys2Proof

/-! ## Loads and stores -/

theorem State.memRead_of_unwritten {s : State} {a : Nat} (ha : a < s.cfg.maxBytes) (h : s.buf.lookup a = none) :
    s.memRead a = .error (.unwrittenCell a) := by
  rw [State.memRead, if_pos ha, h]

theorem State.memRead_of_maxBytes_le {s : State} {a : Nat} (ha : s.cfg.maxBytes ≤ a) :
    s.memRead a = .error (.noSuchCell a) :=
  if_neg (Nat.not_lt.2 ha)

/-- What an address reads as is a matter of the buffer and the build. -/
theorem State.memRead_congr {s t : State} (hbuf : t.buf = s.buf) (hcfg : t.cfg = s.cfg) (a : Nat) :
    t.memRead a = s.memRead a := by
  rw [State.memRead, State.memRead, hbuf, hcfg]

/-- R33, R41: a store changes what its own address reads as. -/
theorem State.memRead_setCell {s : State} {a : Nat} (v : Byte) (ha : a < s.cfg.maxBytes) (a' : Nat) :
    (s.setCell a v).memRead a' = if a' = a then .ok v else s.memRead a' := by
  split
  next h =>
    subst h
    exact State.memRead_ok.2 ⟨ha, Memory.lookup_insert_self _ _ _⟩
  next h => rw [State.memRead, State.memRead, State.setCell_cfg, State.setCell_buf, Memory.lookup_insert_ne _ _ h]

/-- Settles O52: a store below `MAX_BYTES` sets one cell, and no cell exists above. -/
theorem loadReturnsLatestStore : Obligations.LoadReturnsLatestStore := by
  unfold Obligations.LoadReturnsLatestStore
  intro s a v
  refine ⟨fun ha => ⟨s.setCell a v, State.memWrite_ok.2 ⟨ha, rfl⟩, ?_, fun a' hne => ?_, Memory.wf_insert _ _ _⟩,
    fun ha => ⟨if_neg (Nat.not_lt.2 ha), State.memRead_of_maxBytes_le ha⟩⟩
  · rw [State.memRead_setCell v ha, if_pos rfl]
  · rw [State.memRead_setCell v ha, if_neg hne]

/-! ## RECV.HEX -/

section
variable {s u : State} {v : Nibble} (hu : s.storeDigit v = .ok u)
include hu

/-- R82: a digit stores one byte, at an odd position within the limit. -/
theorem State.storeDigit_memRead (a : Nat) :
    u.memRead a = if s.nchars < s.textLimit ∧ s.nchars % 2 = 1 ∧ a = s.storeAddr then .ok (assembleByte s.hi v)
      else s.memRead a := by
  rcases s.storeDigit_cases v with ⟨-, heven, he⟩ | ⟨hlt, hodd, haddr, he⟩ | ⟨hle, he⟩ <;> cases he.symm.trans hu
  · exact (if_neg (by omega)).symm
  · simp only [State.memRead_setCell _ haddr, hlt, hodd, true_and]
  · exact (if_neg (by omega)).symm

/-- R82: a digit is held at an even position within the limit. -/
theorem State.storeDigit_hi (h : ¬(s.nchars < s.textLimit ∧ s.nchars % 2 = 0)) : u.hi = s.hi := by
  rcases s.storeDigit_cases v with ⟨hlt, heven, -⟩ | ⟨-, -, -, he⟩ | ⟨-, he⟩
  · exact absurd ⟨hlt, heven⟩ h
  · cases he.symm.trans hu
    rfl
  · cases he.symm.trans hu
    rfl

end

/-- Settles O26: the digit is stored or held, and the rest of the operation touches the counter and the record alone. -/
theorem recvHexFrame : Obligations.RecvHexFrame := by
  unfold Obligations.RecvHexFrame
  intro r hr s t hp h
  obtain ⟨u, hu, hexec⟩ := recvHex_recv r.1 r.2.1 hp
  rw [exec_hexRow r hr, hexec] at h
  cases h
  refine ⟨fun a => (State.storeDigit_memRead hu a :), fun hne => (State.storeDigit_hi hu hne :), ?_⟩
  rw [State.storeDigit_frame hu]
  exact ⟨rfl, rfl, rfl, rfl, rfl, rfl, rfl, rfl, rfl, rfl, rfl⟩

/-! ## Disabled operations (log entries 8, 9) -/

section
variable {s : State}

theorem State.recvEnabled_iff : s.recvEnabled = true ↔ s.phase = .recv := by
  simp [State.recvEnabled]

theorem State.absorbEnabled_iff : s.absorbEnabled = true ↔ s.phase = .check ∧ s.bitcnt = 0 ∧ s.idx < s.len := by
  simp [State.absorbEnabled, State.engBusy, and_assoc]

theorem State.bitstepEnabled_iff : s.bitstepEnabled = true ↔ s.phase = .check ∧ s.bitcnt ≠ 0 := by
  simp [State.bitstepEnabled, State.engBusy]

theorem State.verifyEnabled_iff : s.verifyEnabled = true ↔ s.phase = .check ∧ s.bitcnt = 0 ∧ s.idx = s.len := by
  simp [State.verifyEnabled, State.engBusy, State.atLen, and_assoc]

theorem State.bitEnabled_iff : s.bitEnabled = true ↔ s.phase = .render ∧ s.idx < s.len := by
  simp [State.bitEnabled]

theorem State.newlineEnabled_iff : s.newlineEnabled = true ↔ s.phase = .render ∧ s.idx = s.len := by
  simp [State.newlineEnabled, State.atLen]

/-- R44: outside RECV no symbol is transferred. -/
theorem exec_recv_disabled (hp : s.phase ≠ .recv) :
    (∀ r ∈ hexRows, exec r.2.2 s = .next s) ∧ exec .recvLf s = .next s ∧ exec .recvEof s = .next s ∧
    ∀ c, exec (.recvOther c) s = .next s := by
  have hdisabled := mt State.recvEnabled_iff.1 hp
  exact ⟨fun r hr => (exec_hexRow r hr s).trans (if_neg hdisabled), if_neg hdisabled, if_neg hdisabled,
    fun _ => if_neg hdisabled⟩

end

/-- Settles O47, by the enabling condition each operation tests. -/
theorem disabledOperationsChangeNothing : Obligations.DisabledOperationsChangeNothing := by
  unfold Obligations.DisabledOperationsChangeNothing
  intro s
  exact ⟨exec_recv_disabled, fun h => if_neg (mt State.absorbEnabled_iff.1 h),
    fun h => if_neg (mt State.bitstepEnabled_iff.1 h), fun hz => (exec_engBitstep s).trans (engineEdge_of_idle s hz),
    fun h => if_neg (mt State.verifyEnabled_iff.1 h), fun h => if_neg (mt State.bitEnabled_iff.1 h),
    fun h => if_neg (mt State.newlineEnabled_iff.1 h)⟩

/-! ## Loads that stop (log entries 5, 6) -/

section
variable {s : State} {f : Fault}

theorem exec_checkAbsorb_fault (hen : s.phase = .check ∧ s.bitcnt = 0 ∧ s.idx < s.len)
    (hload : s.memRead s.idx = .error f) : exec .checkAbsorb s = .fault f := by
  have hbyte : s.byteAtIdx = .error f := hload
  simp only [exec, execCheckAbsorb, State.absorbEnabled_iff.2 hen, ↓reduceIte, hbyte, orFault_error]

theorem exec_checkVerify_fault (hen : s.phase = .check ∧ s.bitcnt = 0 ∧ s.idx = s.len) (hload : s.trailer = .error f) :
    exec .checkVerify s = .fault f := by
  simp only [exec, execCheckVerify, State.verifyEnabled_iff.2 hen, ↓reduceIte, hload, orFault_error]

theorem exec_renderBit_fault (hen : s.phase = .render ∧ s.idx < s.len) (hload : s.memRead s.idx = .error f) :
    exec .renderBit s = .fault f := by
  have hbyte : s.byteAtIdx = .error f := hload
  simp only [exec, execRenderBit, State.bitEnabled_iff.2 hen, ↓reduceIte, hbyte, orFault_error]

end

/-- Settles O51: an enabled operation stops with the fault of its load. -/
theorem unreadableCellsStopLoads : Obligations.UnreadableCellsStopLoads := by
  unfold Obligations.UnreadableCellsStopLoads
  intro s
  refine ⟨fun hp hz hlt ha hcell => ?_, fun hp hz hlt ha => ?_, fun hp hz hidx hlen => ?_,
    fun hp hz hidx hlen ha hcell => ?_, fun hp hz hidx hlt => ?_, fun hp hlt ha hcell => ?_, fun hp hlt ha => ?_⟩
  · exact exec_checkAbsorb_fault ⟨hp, hz, hlt⟩ (State.memRead_of_unwritten ha hcell)
  · exact exec_checkAbsorb_fault ⟨hp, hz, hlt⟩ (State.memRead_of_maxBytes_le ha)
  · exact exec_checkVerify_fault ⟨hp, hz, hidx⟩ (if_pos hlen)
  · exact exec_checkVerify_fault ⟨hp, hz, hidx⟩
      ((State.trailer_of_len_ne_zero hlen).trans (State.memRead_of_unwritten ha hcell))
  · exact exec_checkVerify_fault ⟨hp, hz, hidx⟩
      ((State.trailer_of_len_ne_zero (Nat.ne_zero_of_lt hlt)).trans
        (State.memRead_of_maxBytes_le (Nat.le_sub_one_of_lt hlt)))
  · exact exec_renderBit_fault ⟨hp, hlt⟩ (State.memRead_of_unwritten ha hcell)
  · exact exec_renderBit_fault ⟨hp, hlt⟩ (State.memRead_of_maxBytes_le ha)

/-! ## The frames of the other operations -/

/-- Everything RECV.LF and RECV.EOF can do: nothing, or an error or CHECK entered with the symbol taken. -/
theorem exec_lineEnd_cases {i : Instr} {s t : State} (hi : i = .recvLf ∨ i = .recvEof) (h : exec i s = .next t) :
    t = s ∨ (s.phase = .recv ∧ ∃ x, (∃ e, t = (s.raise e).take x) ∨ t = s.enterCheck.take x) := by
  have hend (x : Sym) : (∃ e, s.endOfLine.take x = (s.raise e).take x) ∨ s.endOfLine.take x = s.enterCheck.take x := by
    rcases s.endOfLine_cases with ⟨-, he⟩ | ⟨-, -, he⟩ | ⟨-, -, he⟩ <;> rw [he]
    · exact .inl ⟨_, rfl⟩
    · exact .inl ⟨_, rfl⟩
    · exact .inr rfl
  by_cases hp : s.phase = .recv
  · refine .inr ⟨hp, ?_⟩
    rcases hi with rfl | rfl
    · cases (exec_recvLf_recv hp).symm.trans h
      exact ⟨_, hend _⟩
    · by_cases hz : s.nchars = 0
      · cases (exec_recvEof_recv_of_zero hp hz).symm.trans h
        exact ⟨_, .inl ⟨_, rfl⟩⟩
      · cases (exec_recvEof_recv_of_ne_zero hp hz).symm.trans h
        exact ⟨_, hend _⟩
  · obtain ⟨-, hlf, heof, -⟩ := exec_recv_disabled hp
    rcases hi with rfl | rfl
    · cases hlf.symm.trans h
      exact .inl rfl
    · cases heof.symm.trans h
      exact .inl rfl

theorem exec_recvOther_cases {c : Byte} {s t : State} (h : exec (.recvOther c) s = .next t) :
    t = s ∨ t = s.markBad.countChar.take (.char c) := by
  by_cases hp : s.phase = .recv
  · cases (exec_recvOther_recv c hp).symm.trans h
    exact .inr rfl
  · obtain ⟨-, -, -, hother⟩ := exec_recv_disabled hp
    cases (hother c).symm.trans h
    exact .inl rfl

/-- Settles O45: a line end moves to DONE or to CHECK, RECV.OTHER writes the flag and the counter. -/
theorem receivingFrame : Obligations.ReceivingFrame := by
  unfold Obligations.ReceivingFrame
  intro i s t hi h
  have hframe : t = s ∨
      (s.phase = .recv ∧ (i = .recvLf ∨ i = .recvEof) ∧ ∃ x, (∃ e, t = (s.raise e).take x) ∨ t = s.enterCheck.take x) ∨
      (∃ c, i = .recvOther c ∧ t = s.markBad.countChar.take (.char c)) := by
    rcases or_assoc.2 hi with hend | ⟨c, rfl⟩
    · exact (exec_lineEnd_cases hend h).imp_right fun ⟨hp, hx⟩ => .inl ⟨hp, hend, hx⟩
    · exact (exec_recvOther_cases h).imp_right fun ht => .inr ⟨c, rfl, ht⟩
  rcases hframe with rfl | ⟨hp, hend, x, ⟨e, rfl⟩ | rfl⟩ | ⟨c, rfl, rfl⟩
  · simp
  · have hnot : ¬∃ c, i = .recvOther c := by rcases hend with rfl | rfl <;> simp
    exact ⟨fun _ => rfl, rfl, rfl, rfl, rfl, rfl, rfl, fun _ => ⟨rfl, rfl⟩, fun _ => ⟨rfl, rfl, rfl⟩,
      fun hd => absurd rfl hd, fun hc => absurd hc hnot⟩
  · have hnot : ¬∃ c, i = .recvOther c := by rcases hend with rfl | rfl <;> simp
    exact ⟨fun _ => rfl, rfl, rfl, rfl, rfl, rfl, rfl, fun _ => ⟨rfl, rfl⟩, fun hc => absurd ⟨hp, rfl⟩ hc,
      fun _ => rfl, fun hc => absurd hc hnot⟩
  · exact ⟨fun _ => rfl, rfl, rfl, rfl, rfl, rfl, rfl, by simp, fun _ => ⟨rfl, rfl, rfl⟩, fun _ => rfl,
      fun _ => ⟨rfl, rfl⟩⟩

theorem exec_checkAbsorb_cases {s t : State} (h : exec .checkAbsorb s = .next t) : t = s ∨ ∃ b, t = s.absorbNext b := by
  change execCheckAbsorb s = .next t at h
  unfold execCheckAbsorb at h
  split at h
  · obtain ⟨b, -, hb⟩ := orFault_next.1 h
    cases hb
    exact .inr ⟨b, rfl⟩
  · cases h
    exact .inl rfl

theorem exec_checkVerify_cases {s t : State} (h : exec .checkVerify s = .next t) :
    t = s ∨ t = s.accept ∨ t = s.raise .integrityMismatch := by
  change execCheckVerify s = .next t at h
  unfold execCheckVerify at h
  split at h
  · obtain ⟨b, -, hb⟩ := orFault_next.1 h
    split at hb <;> cases hb
    · exact .inr (.inl rfl)
    · exact .inr (.inr rfl)
  · cases h
    exact .inl rfl

theorem exec_renderBit_cases {s t : State} (h : exec .renderBit s = .next t) : t = s ∨ ∃ c, t = s.nextBit.send c := by
  change execRenderBit s = .next t at h
  unfold execRenderBit at h
  split at h
  · obtain ⟨b, -, hb⟩ := orFault_next.1 h
    cases hb
    exact .inr ⟨_, rfl⟩
  · cases h
    exact .inl rfl

theorem exec_renderLf_cases {s t : State} (h : exec .renderLf s = .next t) : t = s ∨ t = s.finishOk.send charLF := by
  change execRenderLf s = .next t at h
  unfold execRenderLf at h
  split at h <;> cases h
  · exact .inr rfl
  · exact .inl rfl

/-- Settles O46, by everything each operation can do. -/
theorem checkAndRenderFrame : Obligations.CheckAndRenderFrame := by
  unfold Obligations.CheckAndRenderFrame
  rintro i s t (rfl | rfl | rfl | rfl) h
  · rcases exec_checkAbsorb_cases h with rfl | ⟨b, rfl⟩ <;>
      exact ⟨State.memRead_congr (by simp) (by simp), by simp⟩
  · rcases exec_checkVerify_cases h with rfl | rfl | rfl <;>
      exact ⟨State.memRead_congr (by simp) (by simp), by simp⟩
  · rcases exec_renderBit_cases h with rfl | ⟨c, rfl⟩ <;>
      exact ⟨State.memRead_congr (by simp) (by simp), by simp⟩
  · rcases exec_renderLf_cases h with rfl | rfl <;>
      exact ⟨State.memRead_congr (by simp) (by simp), by simp⟩

/-! ## CHECK.BITSTEP, and runs of one byte -/

/-- Settles O32, by what CHECK.BITSTEP does when it is enabled. -/
theorem checkBitstepEffect : Obligations.CheckBitstepEffect := by
  unfold Obligations.CheckBitstepEffect
  exact ⟨rfl, rfl, fun s hp hn => exec_checkBitstep_enabled hp hn⟩

/-- Settles O33: the edge that absorbs and the eight that step. -/
theorem checkAbsorbsByteInNineSteps : Obligations.CheckAbsorbsByteInNineSteps := by
  unfold Obligations.CheckAbsorbsByteInNineSteps
  intro s b nine rest hb hp hz hlt hread hnine hr hedges
  exact run_checkAbsorbByte hb hp hz hlt hread hnine hr hedges

/-- Settles O37: the run over the bit characters of a sequence of one byte. -/
theorem eightTransfersDeliverOneByte : Obligations.EightTransfersDeliverOneByte := by
  unfold Obligations.EightTransfersDeliverOneByte
  intro s b eight rest hb hp hlt hbit hread height hpins hedges
  have hbyte : ∀ i c, [b][i]? = some c → s.memRead (s.idx + i) = .ok c := by
    intro i c hc
    obtain ⟨rfl, rfl⟩ : i = 0 ∧ b = c := by simpa [List.getElem?_singleton] using hc
    exact hread
  have hrun := run_renderBits (bytes := [b]) hb hp hlt hbyte hbit height hpins hedges (j := 8) (Nat.le_refl 8)
  have hall := State.afterBits_all (s := s) (bytes := [b]) hbit height hedges
  rw [List.flatMap_singleton] at hall
  rw [hrun, ← hbit]
  exact congrArg Host.Outcome.next hall

end Sys2Proof.Machine
end

section
/-! SUPPORT. What a step may change, and what it may depend on: the sticky flag (spec/10_state.md R18), the buffer
(spec/20_memory.md R32, R33), the engine inside the block (R125, log entry 13) and the pins (spec/30_encoding.md R45,
spec/70_reset_and_hazards.md R123). -/

namespace Sys2Proof.Machine

open Sys2Proof

/-! ## The registers that only some steps write -/

/-- R44: the coming edge of the frame checker transfers a character other than LF. -/
def State.TransfersChar (s : State) : Prop :=
  s.block = .frameChecker ∧ s.phase = .recv ∧ s.inTransfer = true ∧ s.pins.inEof = false ∧ s.pins.inChar ≠ charLF

theorem State.transfersChar_intro {s : State} (hr : s.pins.rst = false) (hb : s.block = .frameChecker)
    (hp : s.phase = .recv) (hv : s.pins.inValid = true) (he : s.pins.inEof = false) (hc : s.pins.inChar ≠ charLF) :
    s.TransfersChar :=
  ⟨hb, hp, (State.inTransfer_of_recv hr hp).trans hv, he, hc⟩

/-- R18: `bad` is set by a character of RECV.OTHER, and otherwise left. -/
theorem step_bad {s t : State} (hr : s.pins.rst = false) (h : step s = .next t) :
    t.bad = s.bad ∨ (t.bad = true ∧ s.TransfersChar ∧ isHexDigit s.pins.inChar = false) := by
  cases step_next h with
  | reset hrst => simp [hr] at hrst
  | engClr | engBitstep | engAbsorb | engIdle | noInput | absorb | bitstep | accept | reject | newline | waiting =>
    exact .inl rfl
  | bit => exact .inl (by simp)
  | hexDigit v u _ _ _ _ _ _ _ hu =>
    have hbad : u.bad = s.bad := by rw [State.storeDigit_frame hu, State.advance_bad]
    exact .inl hbad
  | otherChar _ hb hp hv he hc hx =>
    exact .inr ⟨rfl, State.transfersChar_intro hr hb hp hv he hc, by simp [isHexDigit, hx]⟩
  | lineFeed | endOfInput => exact .inl s.advance.endOfLine_bad

/-- Settles O41: the one step that writes `bad` sets it. -/
theorem badIsSticky : Obligations.BadIsSticky := by
  unfold Obligations.BadIsSticky
  refine ⟨rfl, fun s t hr h => ?_⟩
  rcases step_bad hr h with hsame | ⟨hset, ⟨hb, -, htransfer, he, hc⟩, hdigit⟩
  · exact ⟨fun hbad => hsame.trans hbad, fun hne => absurd hsame hne⟩
  · exact ⟨fun _ => hset, fun _ => ⟨hb, htransfer, he, hdigit, hc⟩⟩

/-- R33: a digit at an odd position within the limit is stored, and no other step touches the buffer. -/
theorem step_buf {s t : State} (hr : s.pins.rst = false) (h : step s = .next t) :
    t.buf = s.buf ∨ (s.TransfersChar ∧ s.nchars < s.textLimit ∧ s.nchars % 2 = 1 ∧ s.storeAddr < s.cfg.maxBytes ∧
      ∃ v, hexval s.pins.inChar = some v ∧ t.buf = s.buf.insert s.storeAddr (assembleByte s.hi v)) := by
  cases step_next h with
  | reset hrst => simp [hr] at hrst
  | engClr | engBitstep | engAbsorb | engIdle | otherChar | noInput | absorb | bitstep | accept | reject | newline
  | waiting => exact .inl rfl
  | bit => exact .inl (by simp)
  | lineFeed | endOfInput => exact .inl s.advance.endOfLine_buf
  | hexDigit v u _ hb hp hv he hc hx hu =>
    rcases s.advance.storeDigit_cases v with ⟨-, -, hs⟩ | ⟨hlt, hodd, ha, hs⟩ | ⟨-, hs⟩ <;> cases hs.symm.trans hu
    · exact .inl rfl
    · exact .inr ⟨State.transfersChar_intro hr hb hp hv he hc, hlt, hodd, ha, v, hx, rfl⟩
    · exact .inl rfl

/-- Settles O42: the one step that stores writes the one cell. -/
theorem bufferStoresOnlyInRecv : Obligations.BufferStoresOnlyInRecv := by
  unfold Obligations.BufferStoresOnlyInRecv
  intro s t a hr h hne
  rcases step_buf hr h with hsame | ⟨⟨hb, hp, htransfer, he, -⟩, hlt, hodd, haddr, v, hx, hbuf⟩
  · exact absurd (by rw [hsame]) hne
  · have ha : a = s.storeAddr := by
      by_contra hother
      exact hne (by rw [hbuf, Memory.lookup_insert_ne _ _ hother])
    subst ha
    exact ⟨hb, hp, htransfer, he, hlt, hodd, rfl, haddr, v, hx, by rw [hbuf, Memory.lookup_insert_self]⟩

/-- A line end leaves the engine, or clears it on entering CHECK. -/
theorem State.endOfLine_engine (s : State) :
    (s.endOfLine.crc = s.crc ∧ s.endOfLine.bitcnt = s.bitcnt) ∨
    (s.endOfLine.phase = .check ∧ s.endOfLine.crc = 0 ∧ s.endOfLine.bitcnt = 0) := by
  rcases s.endOfLine_cases with ⟨-, he⟩ | ⟨-, -, he⟩ | ⟨-, -, he⟩ <;> rw [he]
  · exact .inl ⟨rfl, rfl⟩
  · exact .inl ⟨rfl, rfl⟩
  · exact .inr ⟨rfl, rfl, rfl⟩

/-- R125: outside CHECK the engine of the block keeps its registers, but at the edge that enters it. -/
theorem step_engineRegisters {s t : State} (hb : s.block = .frameChecker) (hr : s.pins.rst = false)
    (hp : s.phase ≠ .check) (h : step s = .next t) :
    (t.crc = s.crc ∧ t.bitcnt = s.bitcnt) ∨ (s.phase = .recv ∧ t.phase = .check ∧ t.crc = 0 ∧ t.bitcnt = 0) := by
  cases step_next h with
  | reset hrst => simp [hr] at hrst
  | engClr _ he | engBitstep _ he | engAbsorb _ he | engIdle _ he => simp [hb] at he
  | absorb _ _ _ hc | bitstep _ _ hc | accept _ _ hc | reject _ _ _ hc => exact absurd hc hp
  | otherChar | noInput | newline | waiting => exact .inl ⟨rfl, rfl⟩
  | bit => exact .inl (by simp)
  | hexDigit v u _ _ _ _ _ _ _ hu =>
    have hengine : u.crc = s.crc ∧ u.bitcnt = s.bitcnt := by
      rw [State.storeDigit_frame hu]
      exact ⟨rfl, rfl⟩
    exact .inl hengine
  | lineFeed _ _ hrecv | endOfInput _ _ hrecv => exact s.advance.endOfLine_engine.imp id fun hc => ⟨hrecv, hc⟩

/-- Settles O43, by the steps outside CHECK. -/
theorem engineRegistersChangeOnlyInCheck : Obligations.EngineRegistersChangeOnlyInCheck := by
  unfold Obligations.EngineRegistersChangeOnlyInCheck
  intro s t hb hr h hchange
  by_cases hp : s.phase = .check
  · exact .inl hp
  · rcases step_engineRegisters hb hr hp h with ⟨hcrc, hcnt⟩ | henter
    · exact absurd hchange (by simp [hcrc, hcnt])
    · exact .inr henter

/-! ## The pins that a phase samples -/

/-- R44, R48: the operation of the symbol offered, if one is. -/
def Pins.symOperation (p : Pins) : Option Instr :=
  if p.inValid then some (if p.inEof then .recvEof else decodeChar p.inChar) else none

/-- R81: RECV looks at the symbol offered, RENDER at `out_ready`, and no phase at another pin. -/
theorem fetch_pins_congr {s : State} {p q : Pins} (later : List Pins) (hb : s.block = .frameChecker)
    (hin : s.phase = .recv → p.symOperation = q.symOperation) (hout : s.phase = .render → p.outReady = q.outReady) :
    fetch { s with edges := p :: later } = fetch { s with edges := q :: later } := by
  have hrecv (r : Pins) (hp : s.phase = .recv) : fetch { s with edges := r :: later } = r.symOperation := by
    simp only [fetch, hb, fetchFrameChecker, hp, State.symWord, decodeSym_of]
    rfl
  obtain hp | hp | hp | hp : s.phase = .recv ∨ s.phase = .check ∨ s.phase = .render ∨ s.phase = .done := by
    cases s.phase <;> simp
  · rw [hrecv p hp, hrecv q hp, hin hp]
  · simp only [fetch, hb, fetchFrameChecker, hp]
    rfl
  · simp only [fetch, hb, fetchFrameChecker, hp, State.pins, List.headD_cons, hout hp]
    rfl
  · simp only [fetch, hb, fetchFrameChecker, hp]

/-- A step depends on the coming edge through `rst` and the operation fetched. -/
theorem step_pins_congr {s : State} {p q : Pins} (later : List Pins) (hb : s.block = .frameChecker)
    (hr : p.rst = q.rst) (hin : s.phase = .recv → p.symOperation = q.symOperation)
    (hout : s.phase = .render → p.outReady = q.outReady) :
    step { s with edges := p :: later } = step { s with edges := q :: later } := by
  rw [step, step, fetch_pins_congr later hb hin hout]
  simp only [State.pins, List.headD_cons, hr]
  rfl

/-- Settles O50: in each clause the pins differ in none that the phase samples. -/
theorem unsampledPinsIgnored : Obligations.UnsampledPinsIgnored := by
  unfold Obligations.UnsampledPinsIgnored
  intro s p later c e v hb
  refine ⟨fun he => ?_, fun hv => ?_, fun hp => ?_, fun hp => ?_, ?_⟩
  · exact step_pins_congr later hb rfl (fun _ => by simp [Pins.symOperation, he]) fun _ => rfl
  · exact step_pins_congr later hb rfl (fun _ => by simp [Pins.symOperation, hv]) fun _ => rfl
  · exact step_pins_congr later hb rfl (fun hrecv => absurd hrecv hp) fun _ => rfl
  · exact step_pins_congr later hb rfl (fun _ => rfl) fun hrender => absurd hrender hp
  · exact step_pins_congr later hb rfl (fun _ => rfl) fun _ => rfl

end Sys2Proof.Machine
end

section
/-! SUPPORT. The run of a whole line (spec/41_frame_decoder.md R96, spec/70_reset_and_hazards.md R128, R129): with hosts
that are always ready the invocation ends, and by then the invariants say with what. -/

namespace Sys2Proof.Machine

open Sys2Proof

/-! ## States of a run -/

/-- A state of a run of the frame checker in a given build, with the edges still to come. -/
structure State.OnCourse (s : State) (cfg : Config) (edges : List Pins) : Prop where
  block_eq : s.block = .frameChecker
  cfg_eq : s.cfg = cfg
  edges_eq : s.edges = edges
  inv : s.Inv
  agrees : s.Agrees

theorem State.start_onCourse (cfg : Config) (edges : List Pins) :
    (State.start cfg .frameChecker edges).OnCourse cfg edges :=
  ⟨rfl, rfl, rfl, State.start_inv _ _ _, State.start_agrees _ _ _⟩

/-- What lies outside the block's own registers: a step uses up one edge, and keeps the build and the block. -/
def State.SameEnvironment (s t : State) : Prop := t.edges = s.edges.tail ∧ t.cfg = s.cfg ∧ t.block = s.block

theorem step_environment {s t : State} (h : step s = .next t) : s.SameEnvironment t := by
  cases step_next h with
  | reset | engClr | engBitstep | engAbsorb | engIdle | otherChar | noInput | absorb | bitstep | accept | reject
  | newline | waiting => exact ⟨rfl, rfl, rfl⟩
  | bit | lineFeed | endOfInput => simp [State.SameEnvironment]
  | hexDigit v u _ _ _ _ _ _ _ hu =>
    have henv : u.edges = s.edges.tail ∧ u.cfg = s.cfg ∧ u.block = s.block := by
      rw [State.storeDigit_frame hu]
      exact ⟨rfl, rfl, rfl⟩
    exact henv

section
variable {s : State} {cfg : Config} {p : Pins} {rest : List Pins} (h : s.OnCourse cfg (p :: rest))
include h

theorem State.OnCourse.pins_eq : s.pins = p := State.pins_of_edges h.edges_eq

/-- A run goes on, and the symbol transferred is recorded. -/
theorem State.OnCourse.exists_step (hr : p.rst = false) :
    ∃ t, step s = .next t ∧ t.OnCourse cfg rest ∧ t.taken = s.taken ++ s.symTaken := by
  obtain ⟨t, ht⟩ := invariantNeverStops s h.inv
  obtain ⟨hedges, hcfg, hblock⟩ := step_environment ht
  obtain ⟨htaken, -⟩ := step_records h.inv h.block_eq (h.pins_eq ▸ hr) ht
  exact ⟨t, ht, ⟨hblock.trans h.block_eq, hcfg.trans h.cfg_eq, by rw [hedges, h.edges_eq, List.tail_cons],
    invariantKeptByStep s t h.inv ht, agreementKeptByStep s t h.block_eq h.agrees ht⟩, htaken⟩

end

/-! ## The line is received -/

/-- R44: the characters of a text without LF are transferred one an edge, and RECV goes on. -/
theorem State.OnCourse.run_text {s : State} {cfg : Config} {text : List Byte} {rest : List Pins}
    (h : s.OnCourse cfg (text.map (fun c => (Sym.char c).offered) ++ rest)) (hp : s.phase = .recv)
    (hlf : charLF ∉ text) :
    ∃ t, Host.Core.run Sys2Proof.core text.length s = .next t ∧ t.OnCourse cfg rest ∧ t.phase = .recv ∧
      t.taken = s.taken ++ text.map .char := by
  induction text generalizing s with
  | nil => exact ⟨s, rfl, h, hp, by simp⟩
  | cons c text ih =>
    obtain ⟨hne, hlf'⟩ : charLF ≠ c ∧ charLF ∉ text := by simpa using hlf
    rw [List.map_cons, List.cons_append] at h
    have hpins := h.pins_eq
    have hr : s.pins.rst = false := by rw [hpins]; rfl
    have hc : s.pins.inChar = c := by rw [hpins]; rfl
    have he : s.pins.inEof = false := by rw [hpins]; rfl
    obtain ⟨t, ht, hcourse, htaken⟩ := h.exists_step rfl
    have hstay : ¬s.LeavesPhase := by simp [State.leavesPhase_recv hp, hc, he, hne.symm]
    have hrecv : t.phase = .recv := (step_phase hr ht hstay).trans hp
    rw [State.symTaken_char hr hp (by rw [hpins]; rfl) he, hc] at htaken
    obtain ⟨u, hrun, hcourse', hphase, htaken'⟩ := ih hcourse hrecv hlf'
    exact ⟨u, (Core.run_succ_next ht).trans hrun, hcourse', hphase, by simp [htaken', htaken]⟩

/-! ## The edges still needed -/

/-- The edges with `out_ready` = 1 that lead to DONE after the line has ended: nine for each byte to absorb and the bit
steps owed, one to verify, then eight for each byte to render, less the bits already taken, and one for the newline. -/
def State.remaining (s : State) : Nat :=
  match s.phase with
  | .recv => 0
  | .check => 9 * (s.len - s.idx) + s.bitcnt.toNat + 8 * s.len + 2
  | .render => 8 * (s.len - s.idx) + s.bitidx.toNat + 1 - 7
  | .done => 0

section
variable {s : State}

theorem State.remaining_check (hp : s.phase = .check) :
    s.remaining = 9 * (s.len - s.idx) + s.bitcnt.toNat + 8 * s.len + 2 := by
  rw [State.remaining, hp]

theorem State.remaining_render (hp : s.phase = .render) :
    s.remaining = 8 * (s.len - s.idx) + s.bitidx.toNat + 1 - 7 := by
  rw [State.remaining, hp]

theorem State.remaining_done (hp : s.phase = .done) : s.remaining = 0 := by
  rw [State.remaining, hp]

/-- R89: a transfer takes one bit, of which a byte has eight. -/
theorem State.remaining_nextBit (hp : s.phase = .render) (hlt : s.idx < s.len) :
    s.nextBit.remaining + 1 = s.remaining := by
  rw [State.remaining_render (s.nextBit_phase.trans hp), State.remaining_render hp, s.nextBit_eq]
  change 8 * (s.len - (if s.bitidx = 0 then s.idx + 1 else s.idx)) +
    (if s.bitidx = 0 then 7 else s.bitidx - 1).toNat + 1 - 7 + 1 = _
  by_cases hz : s.bitidx = 0
  · rw [if_pos hz, if_pos hz, hz]
    change 8 * (s.len - (s.idx + 1)) + 7 + 1 - 7 + 1 = 8 * (s.len - s.idx) + 0 + 1 - 7
    omega
  · have hdec : (s.bitidx - 1).toNat + 1 = s.bitidx.toNat := by bv_omega
    rw [if_neg hz, if_neg hz]
    omega

/-- Only DONE needs no edge more. -/
theorem State.Inv.done_of_remaining (h : s.Inv) (hp : s.phase ≠ .recv) (hzero : s.remaining = 0) : s.phase = .done := by
  cases hphase : s.phase with
  | recv => exact absurd hphase hp
  | done => rfl
  | check =>
    rw [State.remaining_check hphase] at hzero
    omega
  | render =>
    rw [State.remaining_render hphase] at hzero
    rcases (h.frame (.inr hphase)).idx_le.lt_or_eq with hlt | hidx
    · omega
    · have hbit : s.bitidx.toNat = 7 := by rw [h.bit_reloaded hphase hidx]; rfl
      omega

/-- R81: with `out_ready` = 1 every edge after the line has ended leaves fewer to go. -/
theorem step_remaining {t : State} (h : s.Inv) (hb : s.block = .frameChecker) (hr : s.pins.rst = false)
    (ho : s.pins.outReady = true) (hp : s.phase ≠ .recv) (hstep : step s = .next t) :
    t.phase ≠ .recv ∧ t.remaining ≤ s.remaining - 1 := by
  have hdone {u : State} (hu : u.phase = .done) : u.phase ≠ .recv ∧ u.remaining ≤ s.remaining - 1 :=
    ⟨by simp [hu], by rw [State.remaining_done hu]; exact Nat.zero_le _⟩
  cases step_next hstep with
  | reset hrst => simp [hr] at hrst
  | engClr _ he | engBitstep _ he | engAbsorb _ he | engIdle _ he => simp [hb] at he
  | hexDigit _ _ _ _ hc | otherChar _ _ hc | lineFeed _ _ hc | noInput _ _ hc | endOfInput _ _ hc => exact absurd hc hp
  | absorb b _ _ hc hz hlt =>
    have hnext : (s.advance.absorbNext b).remaining = 9 * (s.len - (s.idx + 1)) + 8 + 8 * s.len + 2 :=
      State.remaining_check hc
    have hcnt : s.bitcnt.toNat = 0 := by rw [hz]; rfl
    rw [hnext, State.remaining_check hc]
    exact ⟨hp, by omega⟩
  | bitstep _ _ hc hn =>
    have hnext : s.advance.engBitstep.remaining = 9 * (s.len - s.idx) + (s.bitcnt - 1).toNat + 8 * s.len + 2 :=
      State.remaining_check hc
    have hcnt : (s.bitcnt - 1).toNat + 1 = s.bitcnt.toNat := by bv_omega
    rw [hnext, State.remaining_check hc]
    exact ⟨hp, by omega⟩
  | accept _ _ hc =>
    have hnext : s.advance.accept.remaining = 8 * (s.len - 0) + 7 + 1 - 7 := State.remaining_render rfl
    rw [hnext, State.remaining_check hc]
    exact ⟨nofun, by omega⟩
  | reject | newline => exact hdone rfl
  | bit b _ _ hc _ hlt =>
    have hnext : (s.advance.nextBit.send (bitChar (s.bitOf b))).remaining + 1 = s.remaining :=
      State.remaining_nextBit (s := s.advance) hc hlt
    exact ⟨by simp [hc], by omega⟩
  | waiting _ _ hwait =>
    rcases hwait with ⟨hc, -⟩ | ⟨hc, -, hgt⟩ | ⟨hc, hno | hgt⟩ | hc
    · exact absurd hc hp
    · exact absurd (h.frame (.inl hc)).idx_le (Nat.not_le.2 hgt)
    · simp [ho] at hno
    · exact absurd (h.frame (.inr hc)).idx_le (Nat.not_le.2 hgt)
    · exact hdone hc

end

/-! ## The line ends -/

/-- R84, R85: the symbol that ends the line leaves RECV, with 17 edges for each byte and two more to go. -/
theorem step_lineEnd {s t : State} {x : Sym} (hb : s.block = .frameChecker) (hp : s.phase = .recv)
    (hx : x.endsLine) (hpins : s.pins = x.offered) (hstep : step s = .next t) :
    s.symTaken = [x] ∧ t.phase ≠ .recv ∧ t.remaining ≤ 17 * (s.nchars / 2) + 2 := by
  have hr : s.pins.rst = false := by rcases hx with rfl | rfl <;> rw [hpins] <;> rfl
  have hv : s.pins.inValid = true := by rcases hx with rfl | rfl <;> rw [hpins] <;> rfl
  have hleaves (y : Sym) : (s.advance.endOfLine.take y).phase ≠ .recv ∧
      (s.advance.endOfLine.take y).remaining ≤ 17 * (s.nchars / 2) + 2 := by
    rcases s.advance.endOfLine_cases with ⟨-, he⟩ | ⟨-, -, he⟩ | ⟨-, -, he⟩ <;> rw [he]
    · exact ⟨nofun, Nat.zero_le _⟩
    · exact ⟨nofun, Nat.zero_le _⟩
    · refine ⟨nofun, ?_⟩
      change 9 * (s.nchars / 2 - 0) + 0 + 8 * (s.nchars / 2) + 2 ≤ _
      omega
  rcases hx with rfl | rfl
  · have he : s.pins.inEof = true := by rw [hpins]; rfl
    refine ⟨State.symTaken_eof hr hp hv he, ?_⟩
    by_cases hz : s.nchars = 0
    · cases (step_recvNoInput hb hr hp hv he hz).symm.trans hstep
      exact ⟨nofun, Nat.zero_le _⟩
    · obtain ⟨y, hy⟩ := step_recvLineEnd hb hr hp hv (.inr ⟨he, hz⟩)
      cases hy.symm.trans hstep
      exact hleaves y
  · have he : s.pins.inEof = false := by rw [hpins]; rfl
    have hc : s.pins.inChar = charLF := by rw [hpins]; rfl
    refine ⟨hc ▸ State.symTaken_char hr hp hv he, ?_⟩
    obtain ⟨y, hy⟩ := step_recvLineEnd hb hr hp hv (.inl ⟨he, hc⟩)
    cases hy.symm.trans hstep
    exact hleaves y

/-- R17: the counter never exceeds the characters transferred. -/
theorem State.Agrees.nchars_le {s : State} (h : s.Agrees) (hp : s.phase = .recv) : s.nchars ≤ s.taken.length := by
  obtain ⟨text, ⟨htaken, -⟩, hcount, -⟩ := (State.agrees_recv hp).1 h
  rw [htaken, List.length_map, hcount]
  exact Nat.min_le_left _ _

/-! ## The invocation ends -/

theorem State.symTaken_of_ne_recv {s : State} (hp : s.phase ≠ .recv) : s.symTaken = [] :=
  State.symTaken_nil (State.inTransfer_of_ne_recv hp)

/-- R128: after the line has ended, enough edges with `out_ready` = 1 lead to DONE. -/
theorem State.OnCourse.run_ready {s : State} {cfg : Config} {n : Nat} (h : s.OnCourse cfg (List.replicate n Pins.ready))
    (hp : s.phase ≠ .recv) (hn : s.remaining ≤ n) :
    ∃ t, Host.Core.run Sys2Proof.core n s = .next t ∧ t.OnCourse cfg [] ∧ t.phase = .done ∧ t.taken = s.taken := by
  induction n generalizing s with
  | zero => exact ⟨s, rfl, h, h.inv.done_of_remaining hp (Nat.le_zero.1 hn), rfl⟩
  | succ n ih =>
    rw [List.replicate_succ] at h
    have hpins := h.pins_eq
    obtain ⟨t, ht, hcourse, htaken⟩ := h.exists_step rfl
    obtain ⟨hp', hless⟩ :=
      step_remaining h.inv h.block_eq (by rw [hpins]; rfl) (by rw [hpins]; rfl) hp ht
    obtain ⟨u, hrun, hcourse', hdone, htaken'⟩ := ih hcourse hp' (by omega)
    refine ⟨u, (Core.run_succ_next ht).trans hrun, hcourse', hdone, ?_⟩
    rw [htaken', htaken, State.symTaken_of_ne_recv hp, List.append_nil]

/-- R96: in DONE the outcome is that of the one line that can have been transferred. -/
theorem State.OnCourse.outcome {s : State} {cfg : Config} {edges : List Pins} {text : List Byte} {ended : Sym}
    (h : s.OnCourse cfg edges) (hp : s.phase = .done) (htaken : s.taken = text.map .char ++ [ended]) :
    (s.status, s.sent) = lineOutcome cfg.maxBytes text ended := by
  obtain ⟨text', ended', ⟨htaken', -, -⟩, houtcome⟩ := (State.agrees_done hp).1 h.agrees
  obtain ⟨htext, hended⟩ := List.append_inj' (htaken.symm.trans htaken') rfl
  have hchar : Function.Injective Sym.char := fun _ _ heq => Sym.char.inj heq
  obtain rfl : text = text' := hchar.list_map htext
  obtain rfl : ended = ended' := List.singleton_inj.1 hended
  rw [houtcome, h.cfg_eq]

/-- Settles O59: the text is received, its end leaves RECV, and the ready edges lead to DONE, where the agreement gives
the outcome. -/
theorem frameRunDeliversOutcome : Obligations.FrameRunDeliversOutcome := by
  unfold Obligations.FrameRunDeliversOutcome
  intro cfg text ended n hlf hended hn
  obtain ⟨s, hrun, hs, hp, htaken⟩ := (State.start_onCourse cfg (lineEdges text ended n)).run_text rfl hlf
  rw [State.start, List.nil_append] at htaken
  have hr : ended.offered.rst = false := by rcases hended with rfl | rfl <;> rfl
  obtain ⟨t, ht, htcourse, httaken⟩ := hs.exists_step hr
  obtain ⟨hsym, hp', hremaining⟩ := step_lineEnd hs.block_eq hp hended hs.pins_eq ht
  rw [htaken, hsym] at httaken
  have hcount : s.nchars ≤ text.length := by
    have hle := hs.agrees.nchars_le hp
    rwa [htaken, List.length_map] at hle
  obtain ⟨u, hrun', hu, hdone, hutaken⟩ := htcourse.run_ready hp' (by omega)
  refine ⟨u, ?_, hdone, hu.outcome hdone (hutaken.trans httaken)⟩
  rw [Nat.add_assoc, Core.run_add_next hrun, Nat.add_comm 1, Core.run_succ_next ht, hrun']

end Sys2Proof.Machine
end
